-- ==== Sys2Proof/Word.lean ====
section
/-! DEFINITION. The word widths of the block. Every value the block handles is unsigned (spec 00_scope.md,
section 4); each width below is one the spec names. -/

namespace Sys2Proof

/-- One byte: a bank register, a memory byte, an I/O port, a data byte (R20, R47). -/
abbrev Byte := BitVec 8

/-- A CPU memory address or an I/O address as the CPU presents it (R40, R60). -/
abbrev Addr := BitVec 16

/-- A window number, `addr[15:14]`; it is also the number of the bank register bound to the window (R23). -/
abbrev Window := BitVec 2

/-- A page number, `bank[w][6:0]` (R21). -/
abbrev Page := BitVec 7

/-- An offset inside a window, `addr[13:0]` (R42). -/
abbrev InWindow := BitVec 14

/-- An image offset before the clamp, a `u21` (R42). -/
abbrev ImageAddr := BitVec 21

/-- A word of the external 16-bit disk interface (R40, R47). -/
abbrev DiskWord := BitVec 16

/-- A container that holds the 27-bit transaction word `T`; its bits above bit 26 must be zero (R60).
DESIGN CHOICE (log 2): the container is 32 bits, the fewest whole bytes that hold `T`. -/
abbrev Container := BitVec 32

end Sys2Proof
end

