-- ==== Sys2Proof/Config.lean ====
section
/-! DEFINITION. The names of the block's collaborators and of the events it shows them, the wiring-time
parameters of R5, the wiring errors of R163, and the free values: what a peripheral answers to a forwarded
read (R101, D23). The fixed values of this board stand in Machine/Board.lean. -/

namespace Sys2Proof

/-- The four interrupt sources the fabric routes (R28, R63, R140). The disk interface is none (R135). -/
inductive Source where
  | video | sound | uart | timer
  deriving DecidableEq, Repr

/-- What the fabric could drive: the timer's trigger channels 0 to 3 and the CPU interrupt-request line
(R140). Channel 2 is named so that its never being driven can be said (R149). -/
inductive Sink where
  | trg0 | trg1 | trg2 | trg3 | intreq
  deriving DecidableEq, Repr

/-- The peripherals reached through `read8` and `write8` (R101, R173). The disk interface is reached
through the ATA width adapter instead. -/
inductive Device where
  | sound | uart | timer | video
  deriving DecidableEq, Repr

/-- An external call the block makes (00_scope.md, section 4): the events a model records in order. An
event of a read does not hold the answer. -/
inductive Event where
  /-- `ExtRead(dev, off)`. -/
  | extRead (dev : Device) (off : Nat)
  /-- `ExtWrite(dev, off, v)`. -/
  | extWrite (dev : Device) (off : Nat) (v : Byte)
  /-- `AtaRead16(off)`. -/
  | ataRead16 (off : Nat)
  /-- `AtaWrite16(off, w)`. -/
  | ataWrite16 (off : Nat) (w : DiskWord)
  /-- `Drive(sink, level)`. -/
  | drive (sink : Sink) (level : Bool)
  deriving DecidableEq, Repr

/-- The polarity table `INVERT : Source → Bool`, kept as data of its own as R141 asks. -/
structure Polarity where
  video : Bool
  sound : Bool
  uart  : Bool
  timer : Bool
  deriving DecidableEq, Repr

/-- The wiring-time parameters of R5 that the spec leaves open or flags as unverified: `IMAGE_SIZE` (D3)
and `INVERT` (D18). They never change while the machine runs (R32). -/
structure Config where
  imageSize : Nat
  invert    : Polarity
  deriving DecidableEq, Repr

/-- The largest image a page index reaches, 128 pages of 16384 bytes (R5). -/
def Config.maxImageSize : Nat := 0x200000

/-- The range R5 and R163 (`BadImageSize`) give `IMAGE_SIZE`. -/
abbrev Config.wf (c : Config) : Prop := 1 ≤ c.imageSize ∧ c.imageSize ≤ Config.maxImageSize

/-- What a handler of the I/O table forwards to (R64). -/
inductive Target where
  | disk | sound | uart | timer | video | bank
  deriving DecidableEq, Repr

/-- One handler of the I/O table: a start port, an end port (both included) and what the port range
reaches (R64; `90_conflicts.md` C5). -/
structure Handler where
  start  : Byte
  stop   : Byte
  target : Target
  deriving DecidableEq, Repr

/-- What the wiring routine checks (R163): the I/O handler table, how many bank registers there are, which
window is bound to which register, and the parameters. -/
structure Wiring where
  handlers  : List Handler
  registers : Nat
  bindings  : List (Nat × Nat)
  config    : Config
  deriving DecidableEq, Repr

/-- The configuration errors of R163, each fatal at wiring time. -/
inductive ConfigError where
  | conflictingPortRange
  | conflictingWindowBinding
  | badImageSize
  deriving DecidableEq, Repr

/-- FREE VALUE (log 12). The byte a peripheral answers to `ExtRead(dev, off)`: an oracle answer under no
law (R101, D23). It is applied to the number of transactions taken so far and to the events recorded so
far, so that no two reads of a run share an answer by construction. -/
opaque Config.extAnswer : Nat → List Event → Device → Nat → Byte

/-- FREE VALUE (log 12). The word the disk interface answers to `AtaRead16(off)` (R130, D23). -/
opaque Config.ataAnswer : Nat → List Event → Nat → DiskWord

end Sys2Proof
end

