-- ==== Sys2Proof/Syntax.lean ====
section
/-! DEFINITION. The transactions the block accepts: one constructor per row of spec/opcode_table.json, the two
reserved rows among them. Operands are the fields that the row's encoding leaves free (R62, R69): an
I/O transaction keeps the ignored high address byte `hi`, so that no bit of a word is lost. -/

namespace Sys2Proof

/-- One transaction (R60 to R62, `30_encoding.md` section 6). -/
inductive Instr where
  /-- `MEMRD addr` (R80). -/
  | memrd (addr : Addr)
  /-- `MEMWR addr, data` (R82). -/
  | memwr (addr : Addr) (data : Byte)
  /-- `IORD`, port `0x08 + off` (R130). -/
  | iordDisk (hi : Byte) (off : BitVec 3)
  /-- `IOWR`, port `0x08 + off` (R131). -/
  | iowrDisk (hi : Byte) (off : BitVec 3) (data : Byte)
  /-- `IORD`, port `0x10 + off` (R104). -/
  | iordSound (hi : Byte) (off : BitVec 1)
  /-- `IOWR`, port `0x10 + off` (R105). -/
  | iowrSound (hi : Byte) (off : BitVec 1) (data : Byte)
  /-- `IORD`, port `0x18 + off` (R106). -/
  | iordUart (hi : Byte) (off : BitVec 3)
  /-- `IOWR`, port `0x18 + off` (R107). -/
  | iowrUart (hi : Byte) (off : BitVec 3) (data : Byte)
  /-- `IORD`, port `0x20 + off` (R108). -/
  | iordTimer (hi : Byte) (off : BitVec 2)
  /-- `IOWR`, port `0x20 + off` (R109). -/
  | iowrTimer (hi : Byte) (off : BitVec 2) (data : Byte)
  /-- `IORD`, port `0x98 + off` (R110). -/
  | iordVideo (hi : Byte) (off : BitVec 2)
  /-- `IOWR`, port `0x98 + off` (R113). -/
  | iowrVideo (hi : Byte) (off : BitVec 2) (data : Byte)
  /-- `IORD`, port `0xFC + index` (R111). -/
  | iordBank (hi : Byte) (index : Window)
  /-- `IOWR`, port `0xFC + index` (R112). -/
  | iowrBank (hi : Byte) (index : Window) (data : Byte)
  /-- `IORD` of an unmapped port (R114). -/
  | iordUnmapped (hi port : Byte)
  /-- `IOWR` of an unmapped port (R115). -/
  | iowrUnmapped (hi port : Byte) (data : Byte)
  /-- `SIGNAL VIDEO, asserted` (R142). -/
  | signalVideo (asserted : Bool)
  /-- `SIGNAL SOUND, asserted` (R143). -/
  | signalSound (asserted : Bool)
  /-- `SIGNAL UART, asserted` (R144). -/
  | signalUart (asserted : Bool)
  /-- `SIGNAL TIMER, asserted` (R145). -/
  | signalTimer (asserted : Bool)
  /-- `RESET` (R180). -/
  | reset
  /-- The reserved kind 110 with its other 24 bits (R61, R70). -/
  | reserved110 (rest : BitVec 24)
  /-- The reserved kind 111 with its other 24 bits (R61, R70). -/
  | reserved111 (rest : BitVec 24)
  deriving DecidableEq, Repr

/-- Who acts on the block (R4). -/
inductive Agent where
  | cpu | peripheral | host
  deriving DecidableEq, Repr

end Sys2Proof
end

