-- ==== Sys2Proof/Machine/Board.lean ====
section
/-! DEFINITION. What the spec fixes for this board: the I/O handler table and the unmapped ports (R64, R67), the
power-on bank values (R27), the idle values (R111, R114), the interrupt routing and default polarity (R140),
the window binding (R23), who issues which transaction (R61), and the wiring-time checks (R163). -/

namespace Sys2Proof.Board

/-- "Static routing table (inclusive ranges)" (R64). -/
def handlers : List Handler :=
  [⟨0x08, 0x0F, .disk⟩, ⟨0x10, 0x11, .sound⟩, ⟨0x18, 0x1F, .uart⟩,
   ⟨0x20, 0x23, .timer⟩, ⟨0x98, 0x9B, .video⟩, ⟨0xFC, 0xFF, .bank⟩]

/-- The handler's inclusive range holds the port (R100). -/
def claims (h : Handler) (port : Byte) : Bool := decide (h.start ≤ port) && decide (port ≤ h.stop)

/-- The one handler whose range holds the port, or none (R100). -/
def handlerOf (port : Byte) : Option Handler := handlers.find? (claims · port)

/-- The unmapped ports 0x00–0x07, 0x12–0x17, 0x24–0x97 and 0x9C–0xFB (R67). -/
def unmapped (port : Byte) : Bool :=
  decide (port ≤ 0x07) || (decide (0x12 ≤ port) && decide (port ≤ 0x17)) ||
  (decide (0x24 ≤ port) && decide (port ≤ 0x97)) || (decide (0x9C ≤ port) && decide (port ≤ 0xFB))

/-- The idle value of an unmapped port (R114). -/
def idle : Byte := 0xFF

/-- `BANK_PORT_READ` (R5, R111; the spec's own decision D4, log 6). -/
def bankPortRead : Byte := 0xFF

/-- Power-on and reset value of `bank[0]` (R27). -/
def powerOnBank0 : Byte := 0x80
/-- Power-on and reset value of `bank[1]` (R27). -/
def powerOnBank1 : Byte := 0x00
/-- Power-on and reset value of `bank[2]` (R27). -/
def powerOnBank2 : Byte := 0x02
/-- Power-on and reset value of `bank[3]` (R27). -/
def powerOnBank3 : Byte := 0x03

/-- The default polarity table (R140, R141; flagged by the source as unverified, log 16). -/
def invert : Polarity := { video := true, sound := true, uart := false, timer := false }

/-- The sink each source is routed to (R140). -/
def sinkOf : Source → Sink
  | .video => .trg0
  | .sound => .trg1
  | .uart => .trg3
  | .timer => .intreq

/-- The source a sink is fed by: channel 2 has none (R140, R149). -/
def sourceOf : Sink → Option Source
  | .trg0 => some .video
  | .trg1 => some .sound
  | .trg2 => none
  | .trg3 => some .uart
  | .intreq => some .timer

/-- The window-to-register binding, "each bound 1:1 to one BankRegister" (R23). -/
def bindings : List (Nat × Nat) := [(0, 0), (1, 1), (2, 2), (3, 3)]

/-- This board's wiring with the parameters the spec leaves open (R32, R186). -/
def wiring (c : Config) : Wiring :=
  { handlers := handlers, registers := 4, bindings := bindings, config := c }

/-- Two handlers claim a common port (R163, `ConflictingPortRange`). -/
def overlap (a b : Handler) : Bool :=
  decide (a.start ≤ a.stop) && decide (b.start ≤ b.stop) &&
  decide (a.start ≤ b.stop) && decide (b.start ≤ a.stop)

/-- No handler of the table shares a port with a later one. -/
def rangesDisjoint : List Handler → Bool
  | [] => true
  | h :: hs => hs.all (fun k => !overlap h k) && rangesDisjoint hs

/-- The register numbers a window is bound to. -/
def boundTo (bs : List (Nat × Nat)) (w : Nat) : List Nat := (bs.filter (·.1 == w)).map (·.2)

/-- Window `i` is bound to exactly one register of the file. DESIGN CHOICE (log 32): R163 names a window bound to
no register or to more than one; a table that lists a window's one register twice, or beside a number
outside the file, is a conflict here too. -/
def boundOnce (w : Wiring) (i : Nat) : Bool :=
  match boundTo w.bindings i with
  | [r] => decide (r < w.registers)
  | _ => false

/-- Exactly four registers, and each of the four windows bound to exactly one of them (R163,
`ConflictingWindowBinding`). DESIGN CHOICE (log 32): rows for a window above 3 are ignored, and two windows
that share a register are no conflict, since R163 names neither. -/
def windowsBound (w : Wiring) : Bool :=
  decide (w.registers = 4) && boundOnce w 0 && boundOnce w 1 && boundOnce w 2 && boundOnce w 3

/-- The configuration checks of R163, run once, before any bus cycle. DESIGN CHOICE (log 20): the spec
orders no two errors, and of several the first in this order is reported. -/
def check (w : Wiring) : Except ConfigError Unit :=
  if rangesDisjoint w.handlers = false then .error .conflictingPortRange
  else if windowsBound w = false then .error .conflictingWindowBinding
  else if w.config.wf then .ok () else .error .badImageSize

/-- Who issues the transaction (R4, R61); the reserved kinds are issued by none. -/
def caller : Instr → Option Agent
  | .memrd _ | .memwr _ _ => some .cpu
  | .iordDisk _ _ | .iowrDisk _ _ _ | .iordSound _ _ | .iowrSound _ _ _ => some .cpu
  | .iordUart _ _ | .iowrUart _ _ _ | .iordTimer _ _ | .iowrTimer _ _ _ => some .cpu
  | .iordVideo _ _ | .iowrVideo _ _ _ | .iordBank _ _ | .iowrBank _ _ _ => some .cpu
  | .iordUnmapped _ _ | .iowrUnmapped _ _ _ => some .cpu
  | .signalVideo _ | .signalSound _ | .signalUart _ | .signalTimer _ => some .peripheral
  | .reset => some .host
  | .reserved110 _ | .reserved111 _ => none

end Sys2Proof.Board
end

