-- ==== Sys2Proof/WellFormed.lean ====
section
/-! DEFINITION. Which terms of Instr are transactions: the widths of the operands leave one thing to check, that
the port of an unmapped access is an unmapped port (R67). -/

namespace Sys2Proof

/-- The instruction is one that a transaction word can stand for. -/
def Instr.wf : Instr → Bool
  | .iordUnmapped _ port => Board.unmapped port
  | .iowrUnmapped _ port _ => Board.unmapped port
  | .memrd _ | .memwr _ _ => true
  | .iordDisk _ _ | .iowrDisk _ _ _ | .iordSound _ _ | .iowrSound _ _ _ => true
  | .iordUart _ _ | .iowrUart _ _ _ | .iordTimer _ _ | .iowrTimer _ _ _ => true
  | .iordVideo _ _ | .iowrVideo _ _ _ | .iordBank _ _ | .iowrBank _ _ _ => true
  | .signalVideo _ | .signalSound _ | .signalUart _ | .signalTimer _ => true
  | .reset | .reserved110 _ | .reserved111 _ => true

end Sys2Proof
end

