-- ==== Sys2Proof/Decode.lean ====
section
/-! DEFINITION. The transaction word (R60 to R63): its fields, the decoder, total on every container and rejecting
by name (R70), and the encoder written from the same tables (R62, R66). After them the opcode table's rows,
match and mask, as a second view of decoding. -/

namespace Sys2Proof

/-- Why a container holds no transaction word (R62, R70). -/
inductive Reject where
  /-- A bit above bit 26 is set (R60). -/
  | bitAbove26
  /-- `MEMRD` with `data` not 0x00. -/
  | memrdData
  /-- `IORD` with `data` not 0x00. -/
  | iordData
  /-- `SIGNAL` with `addr[15:2]` not 0. -/
  | signalAddr
  /-- `SIGNAL` with `data[7:1]` not 0. -/
  | signalData
  /-- `RESET` with `addr` not 0x0000. -/
  | resetAddr
  /-- `RESET` with `data` not 0x00. -/
  | resetData
  deriving DecidableEq, Repr

namespace Word

/-- The container's bits above bit 26 (R60). -/
def above (w : Container) : BitVec 5 := w.extractLsb' 27 5
/-- `T[26:24]` (R60). -/
def kind (w : Container) : BitVec 3 := w.extractLsb' 24 3
/-- `T[23:8]` (R60). -/
def addr (w : Container) : Addr := w.extractLsb' 8 16
/-- `T[7:0]` (R60). -/
def data (w : Container) : Byte := w.extractLsb' 0 8
/-- `T[23:0]`, the bits a reserved kind leaves (opcode table, `RESERVED.110`). -/
def rest (w : Container) : BitVec 24 := w.extractLsb' 0 24

/-- The word with these three fields and nothing above bit 26 (R60). -/
def pack (kind : BitVec 3) (addr : Addr) (data : Byte) : Container :=
  BitVec.ofNat 32 (kind.toNat * 2 ^ 24 + addr.toNat * 2 ^ 8 + data.toNat)

/-- The word of a reserved kind. -/
def packRest (kind : BitVec 3) (rest : BitVec 24) : Container :=
  BitVec.ofNat 32 (kind.toNat * 2 ^ 24 + rest.toNat)

end Word

/-- `addr[15:8]` of an I/O address: ignored by the decoder (R65). -/
def ioHigh (addr : Addr) : Byte := addr.extractLsb' 8 8
/-- The port, `addr[7:0]` (R100). -/
def ioPort (addr : Addr) : Byte := addr.extractLsb' 0 8

/-- The I/O address of a high byte and a port (R62, R65). -/
def ioAddr (hi port : Byte) : Addr := BitVec.ofNat 16 (hi.toNat * 2 ^ 8 + port.toNat)

/-- The I/O read that an I/O address selects: the handler of its port, with offset `port - start` (R64, R102). -/
def decodeIord (addr : Addr) : Instr :=
  let hi := ioHigh addr
  let port := ioPort addr
  match Board.handlerOf port with
  | none => .iordUnmapped hi port
  | some h =>
    let off := port - h.start
    match h.target with
    | .disk => .iordDisk hi (off.setWidth 3)
    | .sound => .iordSound hi (off.setWidth 1)
    | .uart => .iordUart hi (off.setWidth 3)
    | .timer => .iordTimer hi (off.setWidth 2)
    | .video => .iordVideo hi (off.setWidth 2)
    | .bank => .iordBank hi (off.setWidth 2)

/-- The I/O write that an I/O address selects (R64, R103). -/
def decodeIowr (addr : Addr) (data : Byte) : Instr :=
  let hi := ioHigh addr
  let port := ioPort addr
  match Board.handlerOf port with
  | none => .iowrUnmapped hi port data
  | some h =>
    let off := port - h.start
    match h.target with
    | .disk => .iowrDisk hi (off.setWidth 3) data
    | .sound => .iowrSound hi (off.setWidth 1) data
    | .uart => .iowrUart hi (off.setWidth 3) data
    | .timer => .iowrTimer hi (off.setWidth 2) data
    | .video => .iowrVideo hi (off.setWidth 2) data
    | .bank => .iowrBank hi (off.setWidth 2) data

/-- The signal call with this source id, `addr[1:0]` (R63). -/
def decodeSignal (id : BitVec 2) (asserted : Bool) : Instr :=
  if id = 0 then .signalVideo asserted
  else if id = 1 then .signalSound asserted
  else if id = 2 then .signalUart asserted
  else .signalTimer asserted

/-- The transaction a container holds, or why it holds none (R60 to R63, R70). The reserved kinds decode to
instructions of their own, which the machine refuses (log 15). DESIGN CHOICE (log 31): where several grounds of
R70 hold at once, which the spec does not order, the reason is the bit above bit 26 before every other
ground, the reserved kinds among them, and the address field before the data field. -/
def decode (w : Container) : Except Reject Instr :=
  let k := Word.kind w
  let a := Word.addr w
  let d := Word.data w
  if Word.above w ≠ 0 then .error .bitAbove26
  else if k = 0b000 then (if d = 0 then .ok (.memrd a) else .error .memrdData)
  else if k = 0b001 then .ok (.memwr a d)
  else if k = 0b010 then (if d = 0 then .ok (decodeIord a) else .error .iordData)
  else if k = 0b011 then .ok (decodeIowr a d)
  else if k = 0b100 then
    if a.extractLsb' 2 14 ≠ 0 then .error .signalAddr
    else if d.extractLsb' 1 7 ≠ 0 then .error .signalData
    else .ok (decodeSignal (a.extractLsb' 0 2) (d.getLsbD 0))
  else if k = 0b101 then
    if a ≠ 0 then .error .resetAddr else if d ≠ 0 then .error .resetData else .ok .reset
  else if k = 0b110 then .ok (.reserved110 (Word.rest w))
  else .ok (.reserved111 (Word.rest w))

/-- The `data` field of a signal call: bit 0 is the raw level (R62). -/
def signalData (asserted : Bool) : Byte := if asserted then 1 else 0

/-- The transaction word of an instruction (R60 to R63, a port being its range's start plus the offset (R64)). -/
def encode : Instr → Container
  | .memrd addr => Word.pack 0b000 addr 0
  | .memwr addr data => Word.pack 0b001 addr data
  | .iordDisk hi off => Word.pack 0b010 (ioAddr hi (0x08 + off.setWidth 8)) 0
  | .iowrDisk hi off data => Word.pack 0b011 (ioAddr hi (0x08 + off.setWidth 8)) data
  | .iordSound hi off => Word.pack 0b010 (ioAddr hi (0x10 + off.setWidth 8)) 0
  | .iowrSound hi off data => Word.pack 0b011 (ioAddr hi (0x10 + off.setWidth 8)) data
  | .iordUart hi off => Word.pack 0b010 (ioAddr hi (0x18 + off.setWidth 8)) 0
  | .iowrUart hi off data => Word.pack 0b011 (ioAddr hi (0x18 + off.setWidth 8)) data
  | .iordTimer hi off => Word.pack 0b010 (ioAddr hi (0x20 + off.setWidth 8)) 0
  | .iowrTimer hi off data => Word.pack 0b011 (ioAddr hi (0x20 + off.setWidth 8)) data
  | .iordVideo hi off => Word.pack 0b010 (ioAddr hi (0x98 + off.setWidth 8)) 0
  | .iowrVideo hi off data => Word.pack 0b011 (ioAddr hi (0x98 + off.setWidth 8)) data
  | .iordBank hi index => Word.pack 0b010 (ioAddr hi (0xFC + index.setWidth 8)) 0
  | .iowrBank hi index data => Word.pack 0b011 (ioAddr hi (0xFC + index.setWidth 8)) data
  | .iordUnmapped hi port => Word.pack 0b010 (ioAddr hi port) 0
  | .iowrUnmapped hi port data => Word.pack 0b011 (ioAddr hi port) data
  | .signalVideo b => Word.pack 0b100 0x0000 (signalData b)
  | .signalSound b => Word.pack 0b100 0x0001 (signalData b)
  | .signalUart b => Word.pack 0b100 0x0002 (signalData b)
  | .signalTimer b => Word.pack 0b100 0x0003 (signalData b)
  | .reset => Word.pack 0b101 0x0000 0
  | .reserved110 rest => Word.packRest 0b110 rest
  | .reserved111 rest => Word.packRest 0b111 rest

/-- The container that holds the table's word `w` of `nbits` bits, its bits above `nbits` zero. A number
that does not fit a container has a bit above bit 26 and becomes a container that has one too. -/
def tableContainer (nbits w : Nat) : Container :=
  let v := w % 2 ^ nbits
  if v < 2 ^ 32 then BitVec.ofNat 32 v else BitVec.allOnes 32

/-- The instruction the decoder reads from a word numbered as spec/opcode_table.json numbers its bits; that
is also how R60 numbers them. -/
def decodeTableWord (nbits w : Nat) : Option Instr :=
  match decode (tableContainer nbits w) with
  | .ok i => some i
  | .error _ => none

/-- The instruction's name in spec/opcode_table.json. -/
def Instr.mnemonic : Instr → String
  | .memrd _ => "MEMRD"
  | .memwr _ _ => "MEMWR"
  | .iordDisk _ _ => "IORD.DISK"
  | .iowrDisk _ _ _ => "IOWR.DISK"
  | .iordSound _ _ => "IORD.SOUND"
  | .iowrSound _ _ _ => "IOWR.SOUND"
  | .iordUart _ _ => "IORD.UART"
  | .iowrUart _ _ _ => "IOWR.UART"
  | .iordTimer _ _ => "IORD.TIMER"
  | .iowrTimer _ _ _ => "IOWR.TIMER"
  | .iordVideo _ _ => "IORD.VIDEO"
  | .iowrVideo _ _ _ => "IOWR.VIDEO"
  | .iordBank _ _ => "IORD.BANK"
  | .iowrBank _ _ _ => "IOWR.BANK"
  | .iordUnmapped _ _ => "IORD.UNMAPPED"
  | .iowrUnmapped _ _ _ => "IOWR.UNMAPPED"
  | .signalVideo _ => "SIGNAL.VIDEO"
  | .signalSound _ => "SIGNAL.SOUND"
  | .signalUart _ => "SIGNAL.UART"
  | .signalTimer _ => "SIGNAL.TIMER"
  | .reset => "RESET"
  | .reserved110 _ => "RESERVED.110"
  | .reserved111 _ => "RESERVED.111"

/-- A row of the opcode table: a word is the row's when `T & mask = match`. -/
structure Row where
  mnemonic : String
  pattern  : Container
  mask     : Container
  deriving DecidableEq, Repr

/-- spec/opcode_table.json, with the two rows of lowest priority after the others of their kind. -/
def opcodeRows : List Row :=
  [⟨"MEMRD", 0x0000000, 0x70000FF⟩, ⟨"MEMWR", 0x1000000, 0x7000000⟩,
   ⟨"IORD.DISK", 0x2000800, 0x700F8FF⟩, ⟨"IOWR.DISK", 0x3000800, 0x700F800⟩,
   ⟨"IORD.SOUND", 0x2001000, 0x700FEFF⟩, ⟨"IOWR.SOUND", 0x3001000, 0x700FE00⟩,
   ⟨"IORD.UART", 0x2001800, 0x700F8FF⟩, ⟨"IOWR.UART", 0x3001800, 0x700F800⟩] ++
  [⟨"IORD.TIMER", 0x2002000, 0x700FCFF⟩, ⟨"IOWR.TIMER", 0x3002000, 0x700FC00⟩,
   ⟨"IORD.VIDEO", 0x2009800, 0x700FCFF⟩, ⟨"IOWR.VIDEO", 0x3009800, 0x700FC00⟩,
   ⟨"IORD.BANK", 0x200FC00, 0x700FCFF⟩, ⟨"IOWR.BANK", 0x300FC00, 0x700FC00⟩,
   ⟨"IORD.UNMAPPED", 0x2000000, 0x70000FF⟩, ⟨"IOWR.UNMAPPED", 0x3000000, 0x7000000⟩] ++
  [⟨"SIGNAL.VIDEO", 0x4000000, 0x7FFFFFE⟩, ⟨"SIGNAL.SOUND", 0x4000100, 0x7FFFFFE⟩,
   ⟨"SIGNAL.UART", 0x4000200, 0x7FFFFFE⟩, ⟨"SIGNAL.TIMER", 0x4000300, 0x7FFFFFE⟩,
   ⟨"RESET", 0x5000000, 0x7FFFFFF⟩,
   ⟨"RESERVED.110", 0x6000000, 0x7000000⟩, ⟨"RESERVED.111", 0x7000000, 0x7000000⟩]

/-- The word is the row's: "A word is decoded by comparing `T & mask` with `match`" (`30_encoding.md`, section 6). -/
def Row.holds (r : Row) (w : Container) : Bool := decide (w &&& r.mask = r.pattern)

/-- The mnemonic the opcode table gives a container: none when a bit above bit 26 is set or no row matches. -/
def tableMnemonic (w : Container) : Option String :=
  if Word.above w ≠ 0 then none else (opcodeRows.find? (·.holds w)).map (·.mnemonic)

end Sys2Proof
end

