-- ==== Sys2Proof/Machine/State.lean ====
section
/-! DEFINITION. The state of the block (R34): four bank registers, four recorded interrupt lines and the memory image,
with the wiring-time parameters, and the model's own fields for the calls that arrive, the byte a read
returns, the events recorded in order, and the index of the free values. Beside it: why a step stops, the
wiring routine, and the state after reset. -/

namespace Sys2Proof.Machine

/-- The Bank Register File: exactly four registers of 8 bits (R20). -/
structure Banks where
  bank0 : Byte
  bank1 : Byte
  bank2 : Byte
  bank3 : Byte
  deriving DecidableEq, Repr

/-- The interrupt lines: each source's raw asserted value as last reported, none until it first reports
(R28; D7, D19, logs 9 and 17). -/
structure Lines where
  video : Option Bool
  sound : Option Bool
  uart  : Option Bool
  timer : Option Bool
  deriving DecidableEq, Repr

/-- The memory image as (offset, byte) pairs in one canonical form: offsets strictly rising, no entry equal
to what an unlisted offset reads as (R31; the form is `Memory.wf` in Machine/Ops.lean). -/
abbrev Memory := List Host.Cell

/-- The machine between two transactions. -/
structure State where
  /-- R20. -/
  bank : Banks
  /-- R28. -/
  line : Lines
  /-- R31. -/
  img : Memory
  /-- R5, R32: parameters that no step changes (log 3). -/
  cfg : Config
  /-- The calls waiting to be taken, in the one total order of R53 (log 1). -/
  pending : List Container
  /-- What the last transaction returned to its caller: a byte of `respond`, or none for `done` (log 13). -/
  response : Option Byte
  /-- The external calls made so far, oldest first (00_scope.md, section 4; log 14). -/
  events : List Event
  /-- How many transactions have been taken: the index of the free values (log 12). -/
  taken : Nat
  deriving DecidableEq, Repr

/-- Why a step faults. The block raises nothing at run time (R160): the one fault is a wiring error. -/
inductive Fault where
  /-- `IMAGE_SIZE` is 0 or above 0x200000: a configuration that yields no machine (R163). Raised by `step`
  before it takes a transaction, never by a meaning. Safe: no hardware runs in such a state (log 11). -/
  | badImageSize
  deriving DecidableEq, Repr

/-- Why a step is refused. -/
inductive Refusal where
  /-- The instruction has no meaning yet. Raised by an arm of `exec`, of which none is left. Safe. -/
  | notModelled (mnemonic : String)
  /-- Kind 110 is reserved (R70). Raised by the meaning of `reserved110`. Safe: no caller makes this call. -/
  | reservedKind110
  /-- Kind 111 is reserved (R70). Raised by the meaning of `reserved111`. Safe: no caller makes this call. -/
  | reservedKind111
  /-- The container holds no transaction word (R70). Raised by `step`. Safe: no caller makes this call. -/
  | badWord (why : Reject)
  deriving DecidableEq, Repr

/-- The power-on bank values (R27). -/
def Banks.powerOn : Banks :=
  { bank0 := Board.powerOnBank0, bank1 := Board.powerOnBank1,
    bank2 := Board.powerOnBank2, bank3 := Board.powerOnBank3 }

/-- No source has reported (R29, R182). -/
def Lines.powerOn : Lines := { video := none, sound := none, uart := none, timer := none }

/-- The state when the wiring routine ends, for given parameters and initial image (R182): `IMAGE_INIT` is
whatever `img` holds. -/
def State.powerOn (cfg : Config) (img : Memory) : State :=
  { bank := Banks.powerOn, line := Lines.powerOn, img := img, cfg := cfg,
    pending := [], response := none, events := [], taken := 0 }

/-- The wiring routine: the checks of R163 on this board's wiring, then the power-on state (R186). A
configuration that fails yields no machine. -/
def wire (cfg : Config) (img : Memory) : Except ConfigError State :=
  match Board.check (Board.wiring cfg) with
  | .error e => .error e
  | .ok () => .ok (State.powerOn cfg img)

/-- The parameters of `State.reset`. DESIGN CHOICE (log 3): the spec leaves `IMAGE_SIZE` open, and this is
the size its test vectors take; the polarity is R140's default. -/
def defaultConfig : Config := { imageSize := Config.maxImageSize, invert := Board.invert }

/-- The machine right after power-on (R182), with the parameters above and an image that lists nothing
(DESIGN CHOICE, log 4: the spec leaves `IMAGE_INIT` open). -/
def State.reset : State := State.powerOn defaultConfig []

end Sys2Proof.Machine
end

