-- ==== Sys2Proof/Machine/Flags.lean ====
section
/-! DEFINITION. The block has no status flags (R30). What is flag-like is here: the two fields of a bank register
(R21) and the polarity of a route (R141). -/

namespace Sys2Proof.Machine

/-- `page`, bits 6:0 of a bank register (R21). -/
def page (reg : Byte) : Page := reg.extractLsb' 0 7

/-- `protect`, bit 7 of a bank register: set means write-inert (R21). -/
def protect (reg : Byte) : Bool := reg.getLsbD 7

/-- `INVERT[s]` (R141). -/
def invertOf (p : Polarity) : Source → Bool
  | .video => p.video
  | .sound => p.sound
  | .uart => p.uart
  | .timer => p.timer

/-- The level a sink sees for a raw value: `b XOR INVERT[s]` (R142 to R145). -/
def sinkValue (p : Polarity) (src : Source) (raw : Bool) : Bool := raw ^^ invertOf p src

end Sys2Proof.Machine
end

