-- ==== Sys2Proof/Machine/Ops.lean ====
section
/-! DEFINITION. The operations every meaning is written over: the memory image a byte at a time, the registers and the
lines, the events and free values of external calls, and fetching the next transaction. The block takes
no exception and returns from none (R160, R168, R169), so there is no operation for either. -/

namespace Sys2Proof.Machine

/-- What an offset that the image does not list reads as. DESIGN CHOICE (log 4): the spec leaves the
contents at start open (`IMAGE_INIT`, D10); any contents can be listed. -/
def Memory.unlisted : Byte := 0x00

/-- The canonical form from an offset on: offsets rise strictly, and no entry holds the unlisted byte. -/
def Memory.wfFrom (lo : Nat) : Memory → Bool
  | [] => true
  | (a, v) :: m => decide (lo ≤ a) && decide (v ≠ Memory.unlisted) && Memory.wfFrom (a + 1) m

/-- The canonical form of an image. -/
def Memory.wf (m : Memory) : Bool := Memory.wfFrom 0 m

/-- Every listed offset is below `n`. -/
def Memory.within (n : Nat) (m : Memory) : Bool := m.all (fun c => decide (c.1 < n))

/-- `MemRead(off, 1)`: the byte at an offset (00_scope.md, section 4). -/
def Memory.read : Memory → Nat → Byte
  | [], _ => Memory.unlisted
  | (a, v) :: m, off => if off = a then v else Memory.read m off

/-- Put an entry in front, unless it holds the unlisted byte. -/
def Memory.cons (off : Nat) (v : Byte) (m : Memory) : Memory :=
  if v = Memory.unlisted then m else (off, v) :: m

/-- `MemWrite(off, 1, v)`: the byte at an offset replaced, in canonical form (00_scope.md, section 4). -/
def Memory.write : Memory → Nat → Byte → Memory
  | [], off, v => Memory.cons off v []
  | (a, x) :: m, off, v =>
    if off < a then Memory.cons off v ((a, x) :: m)
    else if off = a then Memory.cons off v m
    else (a, x) :: Memory.write m off v

/-- `bank[i]` (R20). -/
def Banks.get (b : Banks) (i : Window) : Byte :=
  if i = 0 then b.bank0 else if i = 1 then b.bank1 else if i = 2 then b.bank2 else b.bank3

/-- `bank[i] <- v` (R112). -/
def Banks.set (b : Banks) (i : Window) (v : Byte) : Banks :=
  if i = 0 then { b with bank0 := v } else if i = 1 then { b with bank1 := v }
  else if i = 2 then { b with bank2 := v } else { b with bank3 := v }

/-- `line[s]` (R28). -/
def Lines.get (l : Lines) : Source → Option Bool
  | .video => l.video
  | .sound => l.sound
  | .uart => l.uart
  | .timer => l.timer

/-- `line[s] <- v` (R142 to R145). -/
def Lines.set (l : Lines) (src : Source) (v : Option Bool) : Lines :=
  match src with
  | .video => { l with video := v }
  | .sound => { l with sound := v }
  | .uart => { l with uart := v }
  | .timer => { l with timer := v }

/-- `respond(v)`: a read ends and returns a byte to its caller. -/
def State.respond (s : State) (v : Byte) : State := { s with response := some v }

/-- `done`: a transaction ends with no response. -/
def State.done (s : State) : State := { s with response := none }

/-- Record an external call, after those before it. -/
def State.record (s : State) (e : Event) : State := { s with events := s.events ++ [e] }

/-- `respond(ExtRead(dev, off))`: one forwarded read, its answer a free value (R101, log 12). -/
def State.extRead (s : State) (dev : Device) (off : Nat) : State :=
  (s.record (.extRead dev off)).respond (Config.extAnswer s.taken s.events dev off)

/-- `ExtWrite(dev, off, v); done`: one forwarded write, the byte unchanged (R101). -/
def State.extWrite (s : State) (dev : Device) (off : Nat) (v : Byte) : State :=
  (s.record (.extWrite dev off v)).done

/-- The 8-bit value of a 16-bit disk word: bits 7:0, bits 15:8 discarded (R130, R132; `ATA_LANE = low`, D6,
log 8). -/
def diskByte (w : DiskWord) : Byte := w.extractLsb' 0 8

/-- The 16-bit disk word of an 8-bit value: bits 15:8 zero (R131, R132; D6, log 8). -/
def diskWord (v : Byte) : DiskWord := v.setWidth 16

/-- `respond(AtaRead8(off))`: one call to the 16-bit interface, its answer a free value (R130, log 12). -/
def State.ataRead (s : State) (off : Nat) : State :=
  (s.record (.ataRead16 off)).respond (diskByte (Config.ataAnswer s.taken s.events off))

/-- `AtaWrite8(off, v); done` (R131). -/
def State.ataWrite (s : State) (off : Nat) (v : Byte) : State :=
  (s.record (.ataWrite16 off (diskWord v))).done

/-- `on_signal_change(src, raw)`: the line records the raw value and the source's sink is driven, on every
call (R142 to R146; D8, D19, logs 10 and 17). -/
def State.signal (s : State) (src : Source) (raw : Bool) : State :=
  ({ s with line := s.line.set src (some raw) }.record
    (.drive (Board.sinkOf src) (sinkValue s.cfg.invert src raw))).done

/-- `write_bank(i, v)`: the register is stored whole; the bindings follow, since they are computed from the
registers (R24, R112, log 18). -/
def State.writeBank (s : State) (i : Window) (v : Byte) : State :=
  { s with bank := s.bank.set i v }.done

/-- The reset entry point: the four bank registers and nothing else (R180, R181; D9, log 21). -/
def State.resetBanks (s : State) : State := { s with bank := Banks.powerOn }.done

/-- The level a sink sees: a pure function of its source's line, none before the first report and none for
a sink without a source (R147, R149). -/
def State.sinkLevel (s : State) (k : Sink) : Option Bool :=
  (Board.sourceOf k).bind fun src => (s.line.get src).map (sinkValue s.cfg.invert src)

/-- Take the next call that waits: its container, and the state with it taken (R53, R167; log 1). -/
def fetch (s : State) : Option (Container × State) :=
  match s.pending with
  | [] => none
  | w :: ws => some (w, { s with pending := ws, taken := s.taken + 1 })

/-- Put a call in front of those that wait. -/
def State.place (s : State) (w : Container) : State := { s with pending := w :: s.pending }

end Sys2Proof.Machine
end

