-- ==== Sys2Proof/Machine/AtaAdapter.lean ====
section
/-! DEFINITION. The ATA width adapter (42_ata_adapter.md): one 16-bit call for each 8-bit access, at the same offset, no
state of its own (R133). -/

namespace Sys2Proof.Machine

/-- `IORD.DISK` (R130). -/
def execIordDisk (_hi : Byte) (off : BitVec 3) (s : State) : Host.Outcome State Fault Refusal :=
  .next (s.ataRead off.toNat)

/-- `IOWR.DISK` (R131). -/
def execIowrDisk (_hi : Byte) (off : BitVec 3) (data : Byte) (s : State) : Host.Outcome State Fault Refusal :=
  .next (s.ataWrite off.toNat data)

end Sys2Proof.Machine
end

