-- ==== Sys2Proof/Machine/InterruptFabric.lean ====
section
/-! DEFINITION. The interrupt routing fabric's signal-change calls (43_interrupt_fabric.md). -/

namespace Sys2Proof.Machine

/-- `SIGNAL.VIDEO`, to trigger channel 0 (R142). -/
def execSignalVideo (asserted : Bool) (s : State) : Host.Outcome State Fault Refusal :=
  .next (s.signal .video asserted)

/-- `SIGNAL.SOUND`, to trigger channel 1 (R143). -/
def execSignalSound (asserted : Bool) (s : State) : Host.Outcome State Fault Refusal :=
  .next (s.signal .sound asserted)

/-- `SIGNAL.UART`, to trigger channel 3 (R144). -/
def execSignalUart (asserted : Bool) (s : State) : Host.Outcome State Fault Refusal :=
  .next (s.signal .uart asserted)

/-- `SIGNAL.TIMER`, to the CPU interrupt-request line (R145). -/
def execSignalTimer (asserted : Bool) (s : State) : Host.Outcome State Fault Refusal :=
  .next (s.signal .timer asserted)

end Sys2Proof.Machine
end

