-- ==== Sys2Proof/Machine/IoDecoder.lean ====
section
/-! DEFINITION. The I/O port decoder's transactions but for the disk range (41_io_decoder.md). The offset of a forwarded
access is `port - start` (D5, log 7); the high address byte is ignored (R65). -/

namespace Sys2Proof.Machine

/-- `IORD.SOUND` (R104). -/
def execIordSound (_hi : Byte) (off : BitVec 1) (s : State) : Host.Outcome State Fault Refusal :=
  .next (s.extRead .sound off.toNat)

/-- `IOWR.SOUND` (R105). -/
def execIowrSound (_hi : Byte) (off : BitVec 1) (data : Byte) (s : State) : Host.Outcome State Fault Refusal :=
  .next (s.extWrite .sound off.toNat data)

/-- `IORD.UART` (R106). -/
def execIordUart (_hi : Byte) (off : BitVec 3) (s : State) : Host.Outcome State Fault Refusal :=
  .next (s.extRead .uart off.toNat)

/-- `IOWR.UART` (R107). -/
def execIowrUart (_hi : Byte) (off : BitVec 3) (data : Byte) (s : State) : Host.Outcome State Fault Refusal :=
  .next (s.extWrite .uart off.toNat data)

/-- `IORD.TIMER` (R108). -/
def execIordTimer (_hi : Byte) (off : BitVec 2) (s : State) : Host.Outcome State Fault Refusal :=
  .next (s.extRead .timer off.toNat)

/-- `IOWR.TIMER` (R109). -/
def execIowrTimer (_hi : Byte) (off : BitVec 2) (data : Byte) (s : State) : Host.Outcome State Fault Refusal :=
  .next (s.extWrite .timer off.toNat data)

/-- `IORD.VIDEO` (R110). -/
def execIordVideo (_hi : Byte) (off : BitVec 2) (s : State) : Host.Outcome State Fault Refusal :=
  .next (s.extRead .video off.toNat)

/-- `IOWR.VIDEO` (R113). -/
def execIowrVideo (_hi : Byte) (off : BitVec 2) (data : Byte) (s : State) : Host.Outcome State Fault Refusal :=
  .next (s.extWrite .video off.toNat data)

/-- `IORD.BANK`: the idle value; no bank register is read back (R111). -/
def execIordBank (_hi : Byte) (_index : Window) (s : State) : Host.Outcome State Fault Refusal :=
  .next (s.respond Board.bankPortRead)

/-- `IOWR.BANK`: `write_bank(index, data)` (R112). -/
def execIowrBank (_hi : Byte) (index : Window) (data : Byte) (s : State) : Host.Outcome State Fault Refusal :=
  .next (s.writeBank index data)

/-- `IORD.UNMAPPED`: the idle value 0xFF (R114). -/
def execIordUnmapped (_hi _port : Byte) (s : State) : Host.Outcome State Fault Refusal :=
  .next (s.respond Board.idle)

/-- `IOWR.UNMAPPED`: no observable effect (R115). -/
def execIowrUnmapped (_hi _port _data : Byte) (s : State) : Host.Outcome State Fault Refusal :=
  .next s.done

end Sys2Proof.Machine
end

