-- ==== Sys2Proof/Machine/Operands.lean ====
section
/-! DEFINITION. Operand assembly (R69): the window and offset of a memory address, the window bindings (R24), the
translation (R42) and the clamp (R43). The operands of I/O and signal words are pulled out by the decoder. -/

namespace Sys2Proof.Machine

/-- The window of an address, `addr[15:14]` (R42). -/
def window (a : Addr) : Window := a.extractLsb' 14 2

/-- The offset of an address in its window, `addr[13:0]` (R42). -/
def inWindow (a : Addr) : InWindow := a.extractLsb' 0 14

/-- `base[w]`, the image offset where window `w` begins (R24, R25). -/
def Banks.base (b : Banks) (w : Window) : Nat := (page (b.get w)).toNat * 16384

/-- `read_bind[w]` (R24). -/
def Banks.readBind (b : Banks) (w : Window) : Nat := b.base w

/-- `write_bind[w]`: none when the window is write-inert (R24). -/
def Banks.writeBind (b : Banks) (w : Window) : Option Nat :=
  if protect (b.get w) then none else some (b.base w)

/-- `Translate(addr)`: `zext_21(page) * 16384 + zext_21(off)` (R42). -/
def Banks.translate (b : Banks) (a : Addr) : ImageAddr :=
  (page (b.get (window a))).setWidth 21 * 16384 + (inWindow a).setWidth 21

/-- `Clamp(p)`: wrap, the spec's own decision D2 (R43, log 5). -/
def clamp (imageSize : Nat) (p : Nat) : Nat := p % imageSize

/-- `Phys(addr)`: the image offset a memory access reaches (R43). -/
def State.phys (s : State) (a : Addr) : Nat := clamp s.cfg.imageSize (s.bank.translate a).toNat

end Sys2Proof.Machine
end

