-- ==== Sys2Proof/Machine/MemoryCycles.lean ====
section
/-! DEFINITION. The memory cycles, `MEMRD` and `MEMWR` (40_memory_cycles.md). -/

namespace Sys2Proof.Machine

/-- `MEMRD addr`: the image byte at `Phys(addr)`; the protect bit is not read (R80). -/
def execMemrd (addr : Addr) (s : State) : Host.Outcome State Fault Refusal :=
  .next (s.respond (s.img.read (s.phys addr)))

/-- `MEMWR addr, data`: the image byte at `Phys(addr)` is replaced if the window is writable, else the write
is discarded (R82). -/
def execMemwr (addr : Addr) (data : Byte) (s : State) : Host.Outcome State Fault Refusal :=
  if protect (s.bank.get (window addr)) then .next s.done
  else .next { s with img := s.img.write (s.phys addr) data }.done

end Sys2Proof.Machine
end

