-- ==== Sys2Proof/Machine/ResetEntry.lean ====
section
/-! DEFINITION. The reset entry point (70_reset_and_hazards.md) and the two reserved kinds, which the spec refuses (R70). -/

namespace Sys2Proof.Machine

/-- `RESET` (R180, R181). -/
def execReset (s : State) : Host.Outcome State Fault Refusal := .next s.resetBanks

/-- Kind 110: refused, no meaning and no state change (R70, D13). -/
def execReserved110 (_rest : BitVec 24) (_s : State) : Host.Outcome State Fault Refusal :=
  .refused .reservedKind110

/-- Kind 111: refused, no meaning and no state change (R70, D13). -/
def execReserved111 (_rest : BitVec 24) (_s : State) : Host.Outcome State Fault Refusal :=
  .refused .reservedKind111

end Sys2Proof.Machine
end

