-- ==== Sys2Proof/Machine/Dispatch.lean ====
section
/-! DEFINITION. One arm for each transaction of spec/opcode_table.json. -/

namespace Sys2Proof.Machine

def exec (i : Instr) (s : State) : Host.Outcome State Fault Refusal :=
  match i with
  | .memrd addr => Sys2Proof.Machine.execMemrd addr s
  | .memwr addr data => Sys2Proof.Machine.execMemwr addr data s
  | .iordDisk hi off => Sys2Proof.Machine.execIordDisk hi off s
  | .iowrDisk hi off data => Sys2Proof.Machine.execIowrDisk hi off data s
  | .iordSound hi off => Sys2Proof.Machine.execIordSound hi off s
  | .iowrSound hi off data => Sys2Proof.Machine.execIowrSound hi off data s
  | .iordUart hi off => Sys2Proof.Machine.execIordUart hi off s
  | .iowrUart hi off data => Sys2Proof.Machine.execIowrUart hi off data s
  | .iordTimer hi off => Sys2Proof.Machine.execIordTimer hi off s
  | .iowrTimer hi off data => Sys2Proof.Machine.execIowrTimer hi off data s
  | .iordVideo hi off => Sys2Proof.Machine.execIordVideo hi off s
  | .iowrVideo hi off data => Sys2Proof.Machine.execIowrVideo hi off data s
  | .iordBank hi index => Sys2Proof.Machine.execIordBank hi index s
  | .iowrBank hi index data => Sys2Proof.Machine.execIowrBank hi index data s
  | .iordUnmapped hi port => Sys2Proof.Machine.execIordUnmapped hi port s
  | .iowrUnmapped hi port data => Sys2Proof.Machine.execIowrUnmapped hi port data s
  | .signalVideo asserted => Sys2Proof.Machine.execSignalVideo asserted s
  | .signalSound asserted => Sys2Proof.Machine.execSignalSound asserted s
  | .signalUart asserted => Sys2Proof.Machine.execSignalUart asserted s
  | .signalTimer asserted => Sys2Proof.Machine.execSignalTimer asserted s
  | .reset => Sys2Proof.Machine.execReset s
  | .reserved110 rest => Sys2Proof.Machine.execReserved110 rest s
  | .reserved111 rest => Sys2Proof.Machine.execReserved111 rest s

end Sys2Proof.Machine
end

