-- ==== Sys2Proof/Machine/Step.lean ====
section
/-! DEFINITION. One step: take the next call that waits and run it to completion (R50, R53). The block acts only on a call
(R4), so a step with none waiting leaves the state as it is. -/

namespace Sys2Proof.Machine

/-- One transaction of the single total order, or why there is none (R53, R70, R163). -/
def step (s : State) : Host.Outcome State Fault Refusal :=
  if s.cfg.wf then
    match fetch s with
    | none => .next s
    | some (w, s') =>
      match decode w with
      | .error why => .refused (.badWord why)
      | .ok i => exec i s'
  else .fault .badImageSize

/-- The state whose next step takes the table's word `w` of `nbits` bits (log 1: a call arrives from outside). -/
def State.withFetchWord (s : State) (nbits w : Nat) : State := s.place (tableContainer nbits w)

end Sys2Proof.Machine
end

