-- ==== Sys2Proof/Safety.lean ====
section
/-! DEFINITION. The terms that claims are stated in: the invariants of the machine, runs of transactions, and a small
reference machine, which knows only the bank registers and says which memory writes land (R53). -/

namespace Sys2Proof.Machine

/-- The machine is wired (R163) and its image is in canonical form with every listed offset inside it (R31). -/
abbrev State.inv (s : State) : Prop :=
  s.cfg.wf ∧ s.img.wf = true ∧ s.img.within s.cfg.imageSize = true

/-- The level of the last `Drive` of a sink in a history, none if there is none. -/
def lastDrive (k : Sink) : List Event → Option Bool
  | [] => none
  | e :: es =>
    match lastDrive k es with
    | some b => some b
    | none => match e with
      | .drive k' b => if k' = k then some b else none
      | .extRead _ _ | .extWrite _ _ _ | .ataRead16 _ | .ataWrite16 _ _ => none

/-- What each sink was last driven to is what its source's line says, and nothing was driven to a sink
whose source has not reported (R147, R149, R150). -/
def State.sinksFollow (s : State) : Prop := ∀ k : Sink, lastDrive k s.events = s.sinkLevel k

/-- A safe run keeps both. -/
def State.safe (s : State) : Prop := s.inv ∧ s.sinksFollow

/-- Run transactions one after another, from the first to the last, stopping at the first stop. -/
def execAll : List Instr → State → Host.Outcome State Fault Refusal
  | [], s => .next s
  | i :: is, s =>
    match exec i s with
    | .next t => execAll is t
    | .fault f => .fault f
    | .refused r => .refused r

/-- The value of bank register `i`'s page times 16384 plus the offset in the window, then the wrap: R42 and
R43 in plain arithmetic. -/
def offsetOf (imageSize : Nat) (b : Banks) (a : Addr) : Nat :=
  ((b.get (window a)).toNat % 128 * 16384 + a.toNat % 16384) % imageSize

/-- The transaction can change a bank register (R26). -/
def Instr.writesBank : Instr → Bool
  | .iowrBank _ _ _ | .reset => true
  | _ => false

/-- The transaction is a memory write. -/
def Instr.isMemwr : Instr → Bool
  | .memwr _ _ => true
  | _ => false

/-- The transaction is a memory cycle. -/
def Instr.isMemory : Instr → Bool
  | .memrd _ | .memwr _ _ => true
  | _ => false

/-- Reference machine: the bank registers after a transaction (R26, R27, R112). -/
def bankAfter (b : Banks) : Instr → Banks
  | .iowrBank _ i d => b.set i d
  | .reset => { bank0 := 0x80, bank1 := 0x00, bank2 := 0x02, bank3 := 0x03 }
  | _ => b

/-- Reference machine: the image byte a transaction writes, if it is a memory write through a writable
window (R44, R53). -/
def landing (imageSize : Nat) (b : Banks) : Instr → Option (Nat × Byte)
  | .memwr a d => if (b.get (window a)).toNat < 128 then some (offsetOf imageSize b a, d) else none
  | _ => none

/-- Reference machine: the byte left at an offset by the last transaction of a run that wrote it, none if
none did (R53). -/
def lastLanded (imageSize off : Nat) : Banks → List Instr → Option Byte
  | _, [] => none
  | b, i :: is =>
    match lastLanded imageSize off (bankAfter b i) is with
    | some v => some v
    | none =>
      match landing imageSize b i with
      | some (o, v) => if o = off then some v else none
      | none => none

end Sys2Proof.Machine
end

