-- ==== Sys2Proof/Certificates/Slice0/Obligations.lean ====
section
/-! DEFINITION. The statements for the provers. Each docstring names the rules it rests on and, where it rests on a decision
of the spec's own or of the model's, the decision's id and the log entry. -/

open Sys2Proof Sys2Proof.Machine

/-! ## Encoding -/

/-- Every well-formed transaction is read back from its word, every operand at every value (R60 to R63, D1). -/
def Obligations.DecodeEncodeRoundTrip : Prop :=
  ∀ i : Instr, i.wf = true → decode (encode i) = .ok i

/-- Every container the decoder accepts is the word of what it reads, which is well formed: no two words
share a transaction (R60 to R63, D1). The reserved kinds are read too, as log 15 has it. -/
def Obligations.EncodeDecodeRoundTrip : Prop :=
  ∀ (w : Container) (i : Instr), decode w = .ok i → i.wf = true ∧ encode i = w

/-- The decoder reads the row that the opcode table's masks and matches select, the two reserved rows among them
(log 15), and refuses where none does. -/
def Obligations.DecoderAgreesWithOpcodeTable : Prop :=
  ∀ w : Container,
    tableMnemonic w = (match decode w with
      | .ok i => some i.mnemonic
      | .error _ => none)

/-- A step is refused exactly on the words R70 lists (D13): a reserved kind, a must-be-zero field that is
not zero, or a bit above bit 26. Which reason is reported is left out (log 31). -/
def Obligations.RefusedExactlyOutsideTheContracts : Prop :=
  ∀ (s : State) (w : Container) (ws : List Container), s.cfg.wf → s.pending = w :: ws →
    let kind := w.toNat / 2 ^ 24
    let addr := w.toNat / 2 ^ 8 % 2 ^ 16
    let data := w.toNat % 2 ^ 8
    ((∃ r, step s = .refused r) ↔
      2 ^ 27 ≤ w.toNat ∨ kind = 6 ∨ kind = 7 ∨ (kind = 0 ∧ data ≠ 0) ∨ (kind = 2 ∧ data ≠ 0) ∨
      (kind = 4 ∧ (4 ≤ addr ∨ 2 ≤ data)) ∨ (kind = 5 ∧ (addr ≠ 0 ∨ data ≠ 0)))

/-- Words of the spec's test vectors decode to the transactions written beside them (95_test_vectors.md). -/
def Obligations.TestVectorWordsDecode : Prop :=
  decode 0x0100000 = .ok (.memrd 0x1000) ∧
  decode 0x1100042 = .ok (.memwr 0x1000 0x42) ∧
  decode 0x2000F00 = .ok (.iordDisk 0x00 7) ∧
  decode 0x3000EEC = .ok (.iowrDisk 0x00 6 0xEC) ∧
  decode 0x3001800 = .ok (.iowrUart 0x00 0 0x00) ∧
  decode 0x385FF85 = .ok (.iowrBank 0x85 3 0x85) ∧
  decode 0x25A4000 = .ok (.iordUnmapped 0x5A 0x40) ∧
  decode 0x4000201 = .ok (.signalUart true) ∧
  decode 0x5000000 = .ok .reset ∧
  decode 0x2004001 = .error .iordData ∧
  decode 0x8000000 = .error .bitAbove26

/-! ## The step -/

/-- When the next call decodes to a transaction, the step is that transaction's meaning on the state with
the call taken off the queue and counted (R50, R53; logs 1 and 12). -/
def Obligations.StepRunsTheDecodedTransaction : Prop :=
  ∀ (s : State) (w : Container) (ws : List Container) (i : Instr),
    s.cfg.wf → s.pending = w :: ws → decode w = .ok i →
      step s = exec i { s with pending := ws, taken := s.taken + 1 }

/-- With no call waiting the machine stays as it is: "it never acts except in response to one of these
calls" (R4). That such a step is a next state, and not a stop, is the model's choice (log 1). -/
def Obligations.StepWithNoCallIsIdle : Prop :=
  ∀ s : State, s.cfg.wf → s.pending = [] → step s = .next s

/-- A step faults exactly when `IMAGE_SIZE` is out of range, a configuration that yields no machine (R163,
D3, log 11); a wired machine never faults (R160). -/
def Obligations.OnlyABadImageSizeFaults : Prop :=
  ∀ s : State, (∃ f, step s = .fault f) ↔ s.cfg.imageSize = 0 ∨ 0x200000 < s.cfg.imageSize

/-- The record of external calls only grows, by at most one call a step, at its end (R51, R101; log 14). -/
def Obligations.StepExtendsTheEventRecord : Prop :=
  ∀ s t : State, step s = .next t → t.events = s.events ∨ ∃ e, t.events = s.events ++ [e]

/-- No step changes a wiring-time parameter (R32). -/
def Obligations.StepKeepsTheWiringParameters : Prop :=
  ∀ s t : State, step s = .next t → t.cfg = s.cfg

/-! ## Invariants -/

/-- Every step of a wired machine keeps it wired and keeps the image canonical and inside `IMAGE_SIZE`
(R31, R43, R161). -/
def Obligations.StepKeepsTheImageWellFormed : Prop :=
  ∀ s t : State, s.inv → step s = .next t → t.inv

/-- Every step keeps each sink at the level its source's line says, and keeps trigger channel 2 and the
sinks of silent sources undriven (R147, R149, R150; D7, D14, logs 9 and 19). That `RESET` keeps the lines and
drives nothing is D9 (log 21). -/
def Obligations.StepKeepsSinksFollowingTheirLines : Prop :=
  ∀ s t : State, s.sinksFollow → step s = .next t → t.sinksFollow

/-- The power-on state of every wired machine with a canonical image that fits is safe, and so is the
model's reset state, whose parameters and image are the model's choice (logs 3 and 4). Lines and sinks at
power-on are D7 (log 9), the empty record is log 14. -/
def Obligations.PowerOnStateIsSafe : Prop :=
  (∀ (cfg : Config) (img : Memory), cfg.wf → img.wf = true → img.within cfg.imageSize = true →
    (State.powerOn cfg img).safe) ∧ State.reset.safe

/-! ## Reset and wiring -/

/-- R27: the four values at power-on and after a reset, from any state, and what they select: window 0
maps page 0 and is protected; windows 1, 2 and 3 map pages 0, 2 and 3 and are writable. -/
def Obligations.PowerOnAndResetBankValues : Prop :=
  ∀ (s : State) (cfg : Config) (img : Memory), ∃ t, exec .reset s = .next t ∧
    ∀ b ∈ [t.bank, (State.powerOn cfg img).bank, State.reset.bank],
      (b.get 0 = 0x80 ∧ b.get 1 = 0x00 ∧ b.get 2 = 0x02 ∧ b.get 3 = 0x03) ∧
      (b.readBind 0 = 0 ∧ b.readBind 1 = 0 ∧ b.readBind 2 = 2 * 16384 ∧ b.readBind 3 = 3 * 16384) ∧
      (b.writeBind 0 = none ∧ b.writeBind 1 = some 0 ∧ b.writeBind 2 = some (2 * 16384) ∧
        b.writeBind 3 = some (3 * 16384))

/-- The reset entry point completes from every state and changes the bank registers only: lines, image,
parameters and the calls that wait stay, nothing is driven or forwarded (R181; D9, log 21), and a second reset
changes nothing (R180). Queue, response, record and count are the model's own fields (logs 1, 13, 14, 12). -/
def Obligations.ResetChangesOnlyTheBankRegisters : Prop :=
  ∀ s : State, ∃ t, exec .reset s = .next t ∧
    t.line = s.line ∧ t.img = s.img ∧ t.cfg = s.cfg ∧ t.events = s.events ∧
    t.pending = s.pending ∧ t.taken = s.taken ∧ t.response = none ∧ exec .reset t = .next t

/-- R183 and R84: where a memory access lands after a reset, before the clamp, and which writes are
discarded. The clamp is D2 (log 5). The right-hand sides use the image and the size before the reset: that the
image survives a reset is R181, the spec's own decision D9 (log 21, unsafe for such a claim). -/
def Obligations.MappingAfterReset : Prop :=
  ∀ (s r : State) (a : Addr) (d : Byte), exec .reset s = .next r →
    let o := (if a.toNat < 0x8000 then a.toNat % 0x4000 else a.toNat) % s.cfg.imageSize
    exec (.memrd a) r = .next { r with response := some (s.img.read o) } ∧
    exec (.memwr a d) r = .next
      (if a.toNat < 0x4000 then r else { r with img := s.img.write o d })

/-- The wiring routine (R163, R182, R186; D3, D20): it yields the power-on state when `IMAGE_SIZE` is in range and
no machine otherwise. The lines are D7 (log 9), the image is D10. The empty queue, no response, the empty
record and the count 0 are the model's own choice (logs 1, 13, 14 and 12), no part of R182. -/
def Obligations.WiringYieldsThePowerOnState : Prop :=
  ∀ (cfg : Config) (img : Memory),
    wire cfg img =
      if 1 ≤ cfg.imageSize ∧ cfg.imageSize ≤ 0x200000 then
        .ok { bank := { bank0 := 0x80, bank1 := 0x00, bank2 := 0x02, bank3 := 0x03 },
              line := { video := none, sound := none, uart := none, timer := none },
              img := img, cfg := cfg, pending := [], response := none, events := [], taken := 0 }
      else .error .badImageSize

/-- The configuration checks of R163 on any wiring: a port range conflict is a port that two rows claim; a
window conflict is a window not bound exactly once to a register of the file, or a file that does not
hold four registers. The model's choice: which of two errors is reported (log 20), and that a window listed
twice with one register, or beside a number outside the file, conflicts (log 32). -/
def Obligations.WiringChecksFindTheConflicts : Prop :=
  ∀ w : Wiring,
    let ports := ∃ (i j : Nat) (hi : i < w.handlers.length) (hj : j < w.handlers.length) (p : Nat), i < j ∧
      (w.handlers[i].start.toNat ≤ p ∧ p ≤ w.handlers[i].stop.toNat) ∧
      (w.handlers[j].start.toNat ≤ p ∧ p ≤ w.handlers[j].stop.toNat)
    let windows := w.registers ≠ 4 ∨
      ∃ n < 4, ¬ ∃ r < w.registers, w.bindings.filter (fun b => b.1 == n) = [(n, r)]
    (Board.check w = .error .conflictingPortRange ↔ ports) ∧
    (Board.check w = .error .conflictingWindowBinding ↔ ¬ports ∧ windows) ∧
    (Board.check w = .error .badImageSize ↔ ¬ports ∧ ¬windows ∧ ¬w.config.wf) ∧
    (Board.check w = .ok () ↔ ¬ports ∧ ¬windows ∧ w.config.wf)

/-! ## Whole-machine rules -/

/-- R26: a bank register changes only by a bank-port write or a reset. -/
def Obligations.BankRegistersChangeOnlyByBankPortOrReset : Prop :=
  ∀ (i : Instr) (s t : State), exec i s = .next t → t.bank ≠ s.bank →
    (∃ hi k d, i = .iowrBank hi k d) ∨ i = .reset

/-- What a transaction other than a memory cycle does, it does whatever the image holds, and it leaves the image
as it is (R59). Two things are not R59's: the two states compared have equal count and equal events, so the
model gives a forwarded read one answer in both (model's choice, log 12, unsafe for such a claim), and that
`RESET` leaves the image is D9 (log 21). -/
def Obligations.OnlyTheMapperReachesTheImage : Prop :=
  ∀ (i : Instr) (s : State) (img : Memory), Instr.isMemory i = false →
    exec i { s with img := img } =
      (match exec i s with
       | .next t => .next { t with img := img }
       | .fault f => .fault f
       | .refused r => .refused r) ∧
    ∀ t, exec i s = .next t → t.img = s.img

/-- An image byte changes only at the offset, and to the data, of a memory write through a writable window
(R31, R44, R51; the clamp is D2, log 5; that `RESET` changes none is D9, log 21). -/
def Obligations.AnImageByteChangesOnlyByALandedWrite : Prop :=
  ∀ (i : Instr) (s t : State) (o : Nat), s.img.wf = true → exec i s = .next t →
    t.img.read o ≠ s.img.read o →
    ∃ a d, i = .memwr a d ∧ (s.bank.get (window a)).toNat < 128 ∧
      o = ((s.bank.get (window a)).toNat % 128 * 16384 + a.toNat % 16384) % s.cfg.imageSize ∧
      t.img.read o = d

/-- What each caller's transactions leave alone (R4, R61): the CPU's change no line and drive no sink; a
peripheral's change neither bank nor image, one line at most, and forward nothing (R152); the host's
change neither line nor image and call nothing (R181; D9, log 21). -/
def Obligations.EachCallerChangesItsOwnPartOnly : Prop :=
  ∀ (i : Instr) (s t : State), exec i s = .next t →
    (Board.caller i = some .cpu → t.line = s.line ∧
      ∀ k b, Event.drive k b ∈ t.events → Event.drive k b ∈ s.events) ∧
    (Board.caller i = some .peripheral → t.bank = s.bank ∧ t.img = s.img ∧
      ∃ src, (∀ src', src' ≠ src → t.line.get src' = s.line.get src') ∧
        ∃ b, t.events = s.events ++ [.drive (Board.sinkOf src) b]) ∧
    (Board.caller i = some .host → t.line = s.line ∧ t.img = s.img ∧ t.events = s.events)

/-! ## Memory -/

/-- `MEMRD` returns the image byte at page times 16384 plus the offset in the window, wrapped into the
image, from any window, and changes nothing else (R80, R81, R42; the wrap is D2, log 5). -/
def Obligations.MemrdReturnsTheTranslatedByte : Prop :=
  ∀ (a : Addr) (s : State),
    exec (.memrd a) s = .next { s with response := some (s.img.read
      (((s.bank.get (BitVec.ofNat 2 (a.toNat / 16384))).toNat % 128 * 16384 + a.toNat % 16384) %
        s.cfg.imageSize)) }

/-- `MEMWR` through a writable window completes; the byte at the translated offset is the data, and every
other byte, and all but the image and the response, is as before (R82; the wrap is D2, log 5). -/
def Obligations.MemwrThroughAWritableWindowStoresOneByte : Prop :=
  ∀ (a : Addr) (d : Byte) (s : State), s.img.wf = true →
    (s.bank.get (BitVec.ofNat 2 (a.toNat / 16384))).toNat < 128 →
    let o := ((s.bank.get (BitVec.ofNat 2 (a.toNat / 16384))).toNat * 16384 + a.toNat % 16384) %
      s.cfg.imageSize
    ∃ t, exec (.memwr a d) s = .next t ∧ t.img.read o = d ∧
      (∀ x, x ≠ o → t.img.read x = s.img.read x) ∧
      t = { s with img := t.img, response := none }

/-- R44: a read is permitted through any window; a write lands if and only if bit 7 of its window's
register is clear, and is otherwise discarded without a trace. Where it lands includes the clamp D2 (log 5). -/
def Obligations.WritesAreGuardedByTheirWindowsProtectBit : Prop :=
  ∀ (a : Addr) (d : Byte) (s : State),
    (∃ t, exec (.memrd a) s = .next t ∧ t.response = some (s.img.read (s.phys a))) ∧
    exec (.memwr a d) s = .next
      (if s.bank.get (window a) &&& 0x80 = 0 then
        { s with img := s.img.write (s.phys a) d, response := none }
       else { s with response := none })

/-- A write decides by the register of its own window alone: whatever the other three hold, the same image
results (R83). -/
def Obligations.OtherWindowsDoNotDecideAWrite : Prop :=
  ∀ (a : Addr) (d : Byte) (s t : State) (b : Banks), b.get (window a) = s.bank.get (window a) →
    exec (.memwr a d) s = .next t →
    exec (.memwr a d) { s with bank := b } = .next { t with bank := b }

/-- R25: the read base of a window is its register's low seven bits times 16384 whatever the protect bit,
the window is writable if and only if the bit is clear, and a read answers the same with it toggled. -/
def Obligations.ReadBaseIgnoresTheProtectBit : Prop :=
  (∀ (b : Banks) (w : Window),
    b.readBind w = (b.get w &&& 0x7F).toNat * 16384 ∧
    (b.set w (b.get w ^^^ 0x80)).readBind w = b.readBind w ∧
    ((b.writeBind w).isSome ↔ b.get w &&& 0x80 = 0) ∧
    (b.get w &&& 0x80 = 0 → b.writeBind w = some (b.readBind w))) ∧
  ∀ (a : Addr) (s t u : State),
    exec (.memrd a) s = .next t →
    exec (.memrd a) { s with bank := s.bank.set (window a) (s.bank.get (window a) ^^^ 0x80) } = .next u →
    u.response = t.response

/-- Two windows on one page share their bytes: what is written through one is read through the other at
once, protected or not (R58). -/
def Obligations.WindowsOnOnePageShareItsBytes : Prop :=
  ∀ (a a' : Addr) (d : Byte) (s : State), s.img.wf = true →
    (s.bank.get (window a)).toNat % 128 = (s.bank.get (window a')).toNat % 128 →
    a.toNat % 16384 = a'.toNat % 16384 →
    (s.bank.get (window a)).toNat < 128 →
    ∃ t u, exec (.memwr a d) s = .next t ∧ exec (.memrd a') t = .next u ∧ u.response = some d

/-- The laws of the mapper (R46): the translation is page times 16384 plus offset, it never leaves 21 bits,
and two addresses meet exactly when their pages and their offsets do. -/
def Obligations.TranslationLaws : Prop :=
  ∀ (b : Banks) (a a' : Addr),
    (b.translate a).toNat = (page (b.get (window a))).toNat * 16384 + a.toNat % 16384 ∧
    (page (b.get (window a))).toNat * 16384 + a.toNat % 16384 < 2 ^ 21 ∧
    (window a = window a' → b.translate a = b.translate a' → a = a') ∧
    (b.translate a = b.translate a' ↔
      page (b.get (window a)) = page (b.get (window a')) ∧ a.toNat % 16384 = a'.toNat % 16384)

/-- R53: after any run, an image byte is what the last write that landed on its offset left, or what it was
before the run; which writes land is said by a machine that keeps the bank registers alone. The clamp is D2
(log 5); that a `RESET` in the run leaves the image is D9 (log 21). -/
def Obligations.TheLastLandedWriteIsWhatIsRead : Prop :=
  ∀ (is : List Instr) (s t : State), s.img.wf = true → execAll is s = .next t →
    ∀ o, t.img.read o = (lastLanded s.cfg.imageSize o s.bank is).getD (s.img.read o)

/-- A read repeated answers the same byte, whatever came between, as long as no memory write, bank-port
write or reset did (R52, R81). -/
def Obligations.ARepeatedReadAnswersTheSame : Prop :=
  ∀ (a : Addr) (is : List Instr) (s t u v : State),
    (∀ i ∈ is, Instr.isMemwr i = false ∧ Instr.writesBank i = false) →
    exec (.memrd a) s = .next t → execAll is t = .next u → exec (.memrd a) u = .next v →
    v.response = t.response

/-- While all four windows are protected, no run without a bank-port write or a reset changes the image
(R44, R26). -/
def Obligations.ProtectedWindowsShieldTheImage : Prop :=
  ∀ (is : List Instr) (s t : State), (∀ w, 128 ≤ (s.bank.get w).toNat) →
    (∀ i ∈ is, Instr.writesBank i = false) → execAll is s = .next t → t.img = s.img

/-- A memory write repeated with the same data leaves the same state (R52). -/
def Obligations.ARepeatedWriteLeavesTheSameState : Prop :=
  ∀ (a : Addr) (d : Byte) (s t : State), s.img.wf = true →
    exec (.memwr a d) s = .next t → exec (.memwr a d) t = .next t

/-- Two canonical images with equal bytes are equal data (the model's form of memory, log 4). -/
def Obligations.EqualContentsAreEqualImages : Prop :=
  ∀ m m' : Memory, m.wf = true → m'.wf = true → (∀ o, m.read o = m'.read o) → m = m'

/-- R54: the call right after a bank-port write already runs on the new mapping, through the window that
was remapped and all others (the clamp is D2, log 5). -/
def Obligations.ARemapIsVisibleToTheNextTransaction : Prop :=
  ∀ (s t u : State) (hi : Byte) (k : Window) (d : Byte) (a : Addr) (ws : List Container),
    s.cfg.wf → s.pending = encode (.iowrBank hi k d) :: encode (.memrd a) :: ws →
    step s = .next t → step t = .next u →
    u.response = some (s.img.read (clamp s.cfg.imageSize
      ((if window a = k then d.toNat % 128 else (s.bank.get (window a)).toNat % 128) * 16384 +
        a.toNat % 16384)))

/-- A two-byte access that crosses a window boundary is two transactions, the second through the next
window's register, at offset 0 of its page (R49, R192; D15, D16, log 28; the wrap is D2, log 5). -/
def Obligations.AStraddlingAccessUsesTwoBankRegisters : Prop :=
  ∀ (s t u : State) (a : Addr) (ws : List Container), s.cfg.wf → a.toNat % 16384 = 16383 →
    s.pending = encode (.memrd a) :: encode (.memrd (a + 1)) :: ws →
    step s = .next t → step t = .next u →
    t.response = some (s.img.read
      (((s.bank.get (window a)).toNat % 128 * 16384 + 16383) % s.cfg.imageSize)) ∧
    u.response = some (s.img.read
      (((s.bank.get (window a + 1)).toNat % 128 * 16384) % s.cfg.imageSize))

/-! ## I/O -/

/-- The read dispatch as a whole (R102): for every I/O address, high byte ignored, the step answers what
the port's range says. Offsets are D5, the disk lane D6, the bank ports' value D4, the answers free
values (D23); logs 6, 7, 8 and 12. -/
def Obligations.IoReadDispatch : Prop :=
  ∀ (s : State) (addr : Addr) (ws : List Container),
    s.cfg.wf → s.pending = BitVec.ofNat 32 (0x2000000 + addr.toNat * 256) :: ws →
    let p := addr.toNat % 256
    let s1 := { s with pending := ws, taken := s.taken + 1 }
    let fwd := fun (dev : Device) (off : Nat) =>
      { s1 with events := s.events ++ [.extRead dev off],
                response := some (Config.extAnswer (s.taken + 1) s.events dev off) }
    step s = .next
      (if 0x08 ≤ p ∧ p ≤ 0x0F then
        { s1 with events := s.events ++ [.ataRead16 (p - 0x08)],
                  response := some (BitVec.ofNat 8 (Config.ataAnswer (s.taken + 1) s.events (p - 0x08)).toNat) }
       else if 0x10 ≤ p ∧ p ≤ 0x11 then fwd .sound (p - 0x10)
       else if 0x18 ≤ p ∧ p ≤ 0x1F then fwd .uart (p - 0x18)
       else if 0x20 ≤ p ∧ p ≤ 0x23 then fwd .timer (p - 0x20)
       else if 0x98 ≤ p ∧ p ≤ 0x9B then fwd .video (p - 0x98)
       else { s1 with response := some 0xFF })

/-- The write dispatch as a whole (R103), for every I/O address and data byte (offsets D5, disk lane D6; logs
7 and 8). -/
def Obligations.IoWriteDispatch : Prop :=
  ∀ (s : State) (addr : Addr) (d : Byte) (ws : List Container),
    s.cfg.wf → s.pending = BitVec.ofNat 32 (0x3000000 + addr.toNat * 256 + d.toNat) :: ws →
    let p := addr.toNat % 256
    let s1 := { s with pending := ws, taken := s.taken + 1, response := none }
    let fwd := fun (dev : Device) (off : Nat) => { s1 with events := s.events ++ [.extWrite dev off d] }
    step s = .next
      (if 0x08 ≤ p ∧ p ≤ 0x0F then
        { s1 with events := s.events ++ [.ataWrite16 (p - 0x08) (BitVec.ofNat 16 d.toNat)] }
       else if 0x10 ≤ p ∧ p ≤ 0x11 then fwd .sound (p - 0x10)
       else if 0x18 ≤ p ∧ p ≤ 0x1F then fwd .uart (p - 0x18)
       else if 0x20 ≤ p ∧ p ≤ 0x23 then fwd .timer (p - 0x20)
       else if 0x98 ≤ p ∧ p ≤ 0x9B then fwd .video (p - 0x98)
       else if 0xFC ≤ p then { s1 with bank := s.bank.set (BitVec.ofNat 2 p) d }
       else s1)

/-- A peripheral read completes from every state, at every offset and high byte: one recorded call at
`port - start`, the peripheral's answer returned unchanged, all else as before (R101, R104, R106, R108,
R110; D5, D23; logs 7 and 12). -/
def Obligations.PeripheralReadsForwardOneCall : Prop :=
  ∀ (s : State) (hi : Byte),
    let after := fun (dev : Device) (off : Nat) =>
      { s with events := s.events ++ [.extRead dev off],
               response := some (Config.extAnswer s.taken s.events dev off) }
    (∀ o : BitVec 1, decode (BitVec.ofNat 32 (0x2000000 + hi.toNat * 65536 + (0x10 + o.toNat) * 256)) = .ok (.iordSound hi o) ∧
      exec (.iordSound hi o) s = .next (after .sound o.toNat)) ∧
    (∀ o : BitVec 3, decode (BitVec.ofNat 32 (0x2000000 + hi.toNat * 65536 + (0x18 + o.toNat) * 256)) = .ok (.iordUart hi o) ∧
      exec (.iordUart hi o) s = .next (after .uart o.toNat)) ∧
    (∀ o : BitVec 2, decode (BitVec.ofNat 32 (0x2000000 + hi.toNat * 65536 + (0x20 + o.toNat) * 256)) = .ok (.iordTimer hi o) ∧
      exec (.iordTimer hi o) s = .next (after .timer o.toNat)) ∧
    (∀ o : BitVec 2, decode (BitVec.ofNat 32 (0x2000000 + hi.toNat * 65536 + (0x98 + o.toNat) * 256)) = .ok (.iordVideo hi o) ∧
      exec (.iordVideo hi o) s = .next (after .video o.toNat))

/-- A peripheral write completes from every state: one recorded call at `port - start` with the byte
unchanged, all else as before (R101, R105, R107, R109, R113; D5, log 7). -/
def Obligations.PeripheralWritesForwardOneCall : Prop :=
  ∀ (s : State) (hi d : Byte),
    let after := fun (dev : Device) (off : Nat) =>
      { s with events := s.events ++ [.extWrite dev off d], response := none }
    (∀ o : BitVec 1, decode (BitVec.ofNat 32 (0x3000000 + hi.toNat * 65536 + (0x10 + o.toNat) * 256 + d.toNat)) = .ok (.iowrSound hi o d) ∧
      exec (.iowrSound hi o d) s = .next (after .sound o.toNat)) ∧
    (∀ o : BitVec 3, decode (BitVec.ofNat 32 (0x3000000 + hi.toNat * 65536 + (0x18 + o.toNat) * 256 + d.toNat)) = .ok (.iowrUart hi o d) ∧
      exec (.iowrUart hi o d) s = .next (after .uart o.toNat)) ∧
    (∀ o : BitVec 2, decode (BitVec.ofNat 32 (0x3000000 + hi.toNat * 65536 + (0x20 + o.toNat) * 256 + d.toNat)) = .ok (.iowrTimer hi o d) ∧
      exec (.iowrTimer hi o d) s = .next (after .timer o.toNat)) ∧
    (∀ o : BitVec 2, decode (BitVec.ofNat 32 (0x3000000 + hi.toNat * 65536 + (0x98 + o.toNat) * 256 + d.toNat)) = .ok (.iowrVideo hi o d) ∧
      exec (.iowrVideo hi o d) s = .next (after .video o.toNat))

/-- R133: each disk read is exactly one `AtaRead16` and each disk write exactly one `AtaWrite16`, at the
same offset; the word written is settled by the byte alone, and nothing of the adapter is kept. -/
def Obligations.EachDiskAccessIsOneCall : Prop :=
  ∀ o : BitVec 3,
    (∀ (hi : Byte) (s : State), ∃ v, exec (.iordDisk hi o) s =
      .next { s with events := s.events ++ [.ataRead16 o.toNat], response := some v }) ∧
    ∀ d : Byte, ∃ w, ∀ (hi : Byte) (s : State), exec (.iowrDisk hi o d) s =
      .next { s with events := s.events ++ [.ataWrite16 o.toNat w], response := none }

/-- The lane of the width adapter (R130 to R132; D6, log 8): a read returns bits 7:0 of the answered word,
a write sends the byte in bits 7:0 with zeros above. -/
def Obligations.DiskBytesUseTheLowLane : Prop :=
  ∀ (s : State) (hi d : Byte) (o : BitVec 3),
    exec (.iordDisk hi o) s = .next { s with
      events := s.events ++ [.ataRead16 o.toNat],
      response := some (BitVec.ofNat 8 ((Config.ataAnswer s.taken s.events o.toNat).toNat % 256)) } ∧
    exec (.iowrDisk hi o d) s = .next { s with
      events := s.events ++ [.ataWrite16 o.toNat (BitVec.ofNat 16 d.toNat)], response := none }

/-- R112: a write of port `0xFC + i`, whatever the high address byte, stores all eight bits in `bank[i]`;
the other registers, the image and all else stay; the window's bindings follow at once, and those of
the other windows are what they were. -/
def Obligations.BankPortWriteStoresTheRegister : Prop :=
  ∀ (s : State) (hi : Byte) (i : Window) (d : Byte),
    decode (BitVec.ofNat 32 (0x3000000 + hi.toNat * 65536 + (0xFC + i.toNat) * 256 + d.toNat)) =
      .ok (.iowrBank hi i d) ∧
    ∃ t, exec (.iowrBank hi i d) s = .next t ∧
      t = { s with bank := t.bank, response := none } ∧
      t.bank.get i = d ∧ t.bank.readBind i = d.toNat % 128 * 16384 ∧
      t.bank.writeBind i = (if d.toNat < 128 then some (d.toNat % 128 * 16384) else none) ∧
      ∀ j, j ≠ i → t.bank.get j = s.bank.get j ∧ t.bank.readBind j = s.bank.readBind j ∧
        t.bank.writeBind j = s.bank.writeBind j

/-- A read of a bank port completes with 0xFF, whatever the four registers hold, and changes nothing (R22,
R111; the value is D4, log 6). -/
def Obligations.BankPortsReadIdle : Prop :=
  ∀ (s : State) (hi : Byte) (i : Window) (b : Banks),
    decode (BitVec.ofNat 32 (0x2000000 + hi.toNat * 65536 + (0xFC + i.toNat) * 256)) = .ok (.iordBank hi i) ∧
    exec (.iordBank hi i) { s with bank := b } = .next { s with bank := b, response := some 0xFF }

/-- R114 and R115: every port of the unmapped set, under every high address byte, reads 0xFF and ignores
writes. -/
def Obligations.UnmappedPortsReadIdleAndIgnoreWrites : Prop :=
  ∀ (s : State) (hi port d : Byte),
    (port.toNat ≤ 0x07 ∨ (0x12 ≤ port.toNat ∧ port.toNat ≤ 0x17) ∨
      (0x24 ≤ port.toNat ∧ port.toNat ≤ 0x97) ∨ (0x9C ≤ port.toNat ∧ port.toNat ≤ 0xFB)) →
    (decode (BitVec.ofNat 32 (0x2000000 + hi.toNat * 65536 + port.toNat * 256)) = .ok (.iordUnmapped hi port) ∧
      exec (.iordUnmapped hi port) s = .next { s with response := some 0xFF }) ∧
    (decode (BitVec.ofNat 32 (0x3000000 + hi.toNat * 65536 + port.toNat * 256 + d.toNat)) = .ok (.iowrUnmapped hi port d) ∧
      exec (.iowrUnmapped hi port d) s = .next { s with response := none })

/-! ## The interrupt fabric -/

/-- R142 to R145: a signal-change call records the raw value in its source's line and drives its source's
sink with `b XOR INVERT[s]`, for every polarity table; all else is as before. -/
def Obligations.SignalCallsRecordAndDrive : Prop :=
  ∀ (s : State) (b : Bool),
    let v := cond b 1 0
    (decode (BitVec.ofNat 32 (0x4000000 + v)) = .ok (.signalVideo b) ∧
      exec (.signalVideo b) s = .next { s with
        line := { s.line with video := some b }, response := none,
        events := s.events ++ [.drive .trg0 (if s.cfg.invert.video then !b else b)] }) ∧
    (decode (BitVec.ofNat 32 (0x4000100 + v)) = .ok (.signalSound b) ∧
      exec (.signalSound b) s = .next { s with
        line := { s.line with sound := some b }, response := none,
        events := s.events ++ [.drive .trg1 (if s.cfg.invert.sound then !b else b)] }) ∧
    (decode (BitVec.ofNat 32 (0x4000200 + v)) = .ok (.signalUart b) ∧
      exec (.signalUart b) s = .next { s with
        line := { s.line with uart := some b }, response := none,
        events := s.events ++ [.drive .trg3 (if s.cfg.invert.uart then !b else b)] }) ∧
    (decode (BitVec.ofNat 32 (0x4000300 + v)) = .ok (.signalTimer b) ∧
      exec (.signalTimer b) s = .next { s with
        line := { s.line with timer := some b }, response := none,
        events := s.events ++ [.drive .intreq (if s.cfg.invert.timer then !b else b)] })

/-- R140: under the board's polarity table, which the reset state has, channels 0 and 1 see the complement
and channel 3 and `INTREQ` the raw value; no two sources share a sink. The table is a default that the
source flags as unverified (D18, log 16). -/
def Obligations.DefaultRoutingAndPolarity : Prop :=
  State.reset.cfg.invert = { video := true, sound := true, uart := false, timer := false } ∧
  (∀ x y : Source, Board.sinkOf x = Board.sinkOf y → x = y) ∧
  ∀ (s : State) (b : Bool), s.cfg.invert = State.reset.cfg.invert →
    ∃ t0 t1 t3 tr,
      (exec (.signalVideo b) s = .next t0 ∧ t0.events = s.events ++ [.drive .trg0 (!b)]) ∧
      (exec (.signalSound b) s = .next t1 ∧ t1.events = s.events ++ [.drive .trg1 (!b)]) ∧
      (exec (.signalUart b) s = .next t3 ∧ t3.events = s.events ++ [.drive .trg3 b]) ∧
      (exec (.signalTimer b) s = .next tr ∧ tr.events = s.events ++ [.drive .intreq b])

/-- A call that repeats the level forwards again (R146; D8, log 10): for each of the four sources, two equal calls
complete, the second leaves the lines as the first did, and the sink is driven twice with the same level. -/
def Obligations.ARepeatedSignalDrivesAgain : Prop :=
  ∀ (s : State) (b : Bool),
    ∀ p ∈ [(Instr.signalVideo b, Source.video), (Instr.signalSound b, Source.sound),
        (Instr.signalUart b, Source.uart), (Instr.signalTimer b, Source.timer)],
      let e := Event.drive (Board.sinkOf p.2) (sinkValue s.cfg.invert p.2 b)
      ∃ t u : State, exec p.1 s = .next t ∧ exec p.1 t = .next u ∧
        t.line.get p.2 = some b ∧ u.line = t.line ∧
        t.events = s.events ++ [e] ∧ u.events = s.events ++ [e, e]

/-- No run of transactions drives timer trigger channel 2 (R149; D14, log 19). -/
def Obligations.ChannelTwoIsNeverDriven : Prop :=
  ∀ (is : List Instr) (s t : State), execAll is s = .next t →
    ∀ b, Event.drive .trg2 b ∈ t.events → Event.drive .trg2 b ∈ s.events

/-- The reserved kinds are refused from every state, with every value of their other bits (R70, D13,
log 15). -/
def Obligations.ReservedKindsAreRefused : Prop :=
  ∀ (s : State) (rest : BitVec 24),
    exec (.reserved110 rest) s = .refused .reservedKind110 ∧
    exec (.reserved111 rest) s = .refused .reservedKind111
end

