-- ==== Sys2Proof/Laws/Decode.lean ====
section
/-! SUPPORT. The fields of a container in plain arithmetic, and the fields of a packed word. -/

namespace Sys2Proof

namespace Word

theorem above_toNat (w : Container) : (above w).toNat = w.toNat / 2 ^ 27 := by
  have := w.isLt
  rw [above, BitVec.extractLsb'_toNat, Nat.shiftRight_eq_div_pow]
  omega

theorem kind_toNat (w : Container) : (kind w).toNat = w.toNat / 2 ^ 24 % 2 ^ 3 := by
  rw [kind, BitVec.extractLsb'_toNat, Nat.shiftRight_eq_div_pow]

theorem addr_toNat (w : Container) : (addr w).toNat = w.toNat / 2 ^ 8 % 2 ^ 16 := by
  rw [addr, BitVec.extractLsb'_toNat, Nat.shiftRight_eq_div_pow]

theorem data_toNat (w : Container) : (data w).toNat = w.toNat % 2 ^ 8 := by
  rw [data, BitVec.extractLsb'_toNat, Nat.shiftRight_zero]

theorem rest_toNat (w : Container) : (rest w).toNat = w.toNat % 2 ^ 24 := by
  rw [rest, BitVec.extractLsb'_toNat, Nat.shiftRight_zero]

theorem pack_toNat (k : BitVec 3) (a : Addr) (d : Byte) :
    (pack k a d).toNat = k.toNat * 2 ^ 24 + a.toNat * 2 ^ 8 + d.toNat := by
  have hk := k.isLt
  have ha := a.isLt
  have hd := d.isLt
  rw [pack, BitVec.toNat_ofNat, Nat.mod_eq_of_lt]
  omega

theorem packRest_toNat (k : BitVec 3) (r : BitVec 24) :
    (packRest k r).toNat = k.toNat * 2 ^ 24 + r.toNat := by
  have hk := k.isLt
  have hr := r.isLt
  rw [packRest, BitVec.toNat_ofNat, Nat.mod_eq_of_lt]
  omega

theorem pack_lt (k : BitVec 3) (a : Addr) (d : Byte) : (pack k a d).toNat < 2 ^ 27 := by
  have hk := k.isLt
  have ha := a.isLt
  have hd := d.isLt
  rw [pack_toNat]
  omega

theorem packRest_lt (k : BitVec 3) (r : BitVec 24) : (packRest k r).toNat < 2 ^ 27 := by
  have hk := k.isLt
  have hr := r.isLt
  rw [packRest_toNat]
  omega

/-- Nothing is set above bit 26 exactly when the word is below `2 ^ 27`. -/
theorem above_eq_zero (w : Container) : above w = 0 ↔ w.toNat < 2 ^ 27 := by
  rw [← BitVec.toNat_inj, above_toNat]
  exact Nat.div_eq_zero_iff.trans (by simp)

@[simp] theorem above_pack (k : BitVec 3) (a : Addr) (d : Byte) : above (pack k a d) = 0 :=
  (above_eq_zero _).2 (pack_lt k a d)

@[simp] theorem above_packRest (k : BitVec 3) (r : BitVec 24) : above (packRest k r) = 0 :=
  (above_eq_zero _).2 (packRest_lt k r)

@[simp] theorem kind_pack (k : BitVec 3) (a : Addr) (d : Byte) : kind (pack k a d) = k := by
  have hk := k.isLt
  have ha := a.isLt
  have hd := d.isLt
  apply BitVec.eq_of_toNat_eq
  rw [kind_toNat, pack_toNat]
  omega

@[simp] theorem addr_pack (k : BitVec 3) (a : Addr) (d : Byte) : addr (pack k a d) = a := by
  have ha := a.isLt
  have hd := d.isLt
  apply BitVec.eq_of_toNat_eq
  rw [addr_toNat, pack_toNat]
  omega

@[simp] theorem data_pack (k : BitVec 3) (a : Addr) (d : Byte) : data (pack k a d) = d := by
  have hd := d.isLt
  apply BitVec.eq_of_toNat_eq
  rw [data_toNat, pack_toNat]
  omega

@[simp] theorem kind_packRest (k : BitVec 3) (r : BitVec 24) : kind (packRest k r) = k := by
  have hk := k.isLt
  have hr := r.isLt
  apply BitVec.eq_of_toNat_eq
  rw [kind_toNat, packRest_toNat]
  omega

@[simp] theorem rest_packRest (k : BitVec 3) (r : BitVec 24) : rest (packRest k r) = r := by
  have hr := r.isLt
  apply BitVec.eq_of_toNat_eq
  rw [rest_toNat, packRest_toNat]
  omega

/-- A word is its three fields. -/
theorem pack_fields {w : Container} (h : above w = 0) : pack (kind w) (addr w) (data w) = w := by
  rw [above_eq_zero] at h
  apply BitVec.eq_of_toNat_eq
  rw [pack_toNat, kind_toNat, addr_toNat, data_toNat]
  omega

/-- A word is its kind and its other 24 bits. -/
theorem packRest_fields {w : Container} (h : above w = 0) : packRest (kind w) (rest w) = w := by
  rw [above_eq_zero] at h
  apply BitVec.eq_of_toNat_eq
  rw [packRest_toNat, kind_toNat, rest_toNat]
  omega

end Word

@[simp] theorem ioHigh_ioAddr (hi port : Byte) : ioHigh (ioAddr hi port) = hi := by
  have hh := hi.isLt
  have hp := port.isLt
  apply BitVec.eq_of_toNat_eq
  rw [ioHigh, BitVec.extractLsb'_toNat, ioAddr, BitVec.toNat_ofNat, Nat.shiftRight_eq_div_pow]
  omega

@[simp] theorem ioPort_ioAddr (hi port : Byte) : ioPort (ioAddr hi port) = port := by
  have hp := port.isLt
  apply BitVec.eq_of_toNat_eq
  rw [ioPort, BitVec.extractLsb'_toNat, ioAddr, BitVec.toNat_ofNat, Nat.shiftRight_zero]
  omega

@[simp] theorem ioAddr_fields (a : Addr) : ioAddr (ioHigh a) (ioPort a) = a := by
  have ha := a.isLt
  apply BitVec.eq_of_toNat_eq
  rw [ioAddr, BitVec.toNat_ofNat, ioHigh, ioPort, BitVec.extractLsb'_toNat, BitVec.extractLsb'_toNat,
    Nat.shiftRight_eq_div_pow, Nat.shiftRight_zero]
  omega

end Sys2Proof
end

