-- ==== Sys2Proof/Laws/State.lean ====
section
/-! SUPPORT. What each named update of the state leaves in each field, and the fields of the power-on state. -/

namespace Sys2Proof.Machine

section Updates
variable (s : State)

@[simp] theorem State.respond_bank (v : Byte) : (s.respond v).bank = s.bank := rfl
@[simp] theorem State.respond_line (v : Byte) : (s.respond v).line = s.line := rfl
@[simp] theorem State.respond_img (v : Byte) : (s.respond v).img = s.img := rfl
@[simp] theorem State.respond_cfg (v : Byte) : (s.respond v).cfg = s.cfg := rfl
@[simp] theorem State.respond_pending (v : Byte) : (s.respond v).pending = s.pending := rfl
@[simp] theorem State.respond_response (v : Byte) : (s.respond v).response = some v := rfl
@[simp] theorem State.respond_events (v : Byte) : (s.respond v).events = s.events := rfl
@[simp] theorem State.respond_taken (v : Byte) : (s.respond v).taken = s.taken := rfl

@[simp] theorem State.done_bank : (s.done).bank = s.bank := rfl
@[simp] theorem State.done_line : (s.done).line = s.line := rfl
@[simp] theorem State.done_img : (s.done).img = s.img := rfl
@[simp] theorem State.done_cfg : (s.done).cfg = s.cfg := rfl
@[simp] theorem State.done_pending : (s.done).pending = s.pending := rfl
@[simp] theorem State.done_response : (s.done).response = none := rfl
@[simp] theorem State.done_events : (s.done).events = s.events := rfl
@[simp] theorem State.done_taken : (s.done).taken = s.taken := rfl

@[simp] theorem State.record_bank (e : Event) : (s.record e).bank = s.bank := rfl
@[simp] theorem State.record_line (e : Event) : (s.record e).line = s.line := rfl
@[simp] theorem State.record_img (e : Event) : (s.record e).img = s.img := rfl
@[simp] theorem State.record_cfg (e : Event) : (s.record e).cfg = s.cfg := rfl
@[simp] theorem State.record_pending (e : Event) : (s.record e).pending = s.pending := rfl
@[simp] theorem State.record_response (e : Event) : (s.record e).response = s.response := rfl
@[simp] theorem State.record_events (e : Event) : (s.record e).events = s.events ++ [e] := rfl
@[simp] theorem State.record_taken (e : Event) : (s.record e).taken = s.taken := rfl

@[simp] theorem State.extRead_bank (dev : Device) (off : Nat) : (s.extRead dev off).bank = s.bank := rfl
@[simp] theorem State.extRead_line (dev : Device) (off : Nat) : (s.extRead dev off).line = s.line := rfl
@[simp] theorem State.extRead_img (dev : Device) (off : Nat) : (s.extRead dev off).img = s.img := rfl
@[simp] theorem State.extRead_cfg (dev : Device) (off : Nat) : (s.extRead dev off).cfg = s.cfg := rfl
@[simp] theorem State.extRead_pending (dev : Device) (off : Nat) : (s.extRead dev off).pending = s.pending := rfl
@[simp] theorem State.extRead_response (dev : Device) (off : Nat) : (s.extRead dev off).response = some (Config.extAnswer s.taken s.events dev off) := rfl
@[simp] theorem State.extRead_events (dev : Device) (off : Nat) : (s.extRead dev off).events = s.events ++ [.extRead dev off] := rfl
@[simp] theorem State.extRead_taken (dev : Device) (off : Nat) : (s.extRead dev off).taken = s.taken := rfl

@[simp] theorem State.extWrite_bank (dev : Device) (off : Nat) (v : Byte) : (s.extWrite dev off v).bank = s.bank := rfl
@[simp] theorem State.extWrite_line (dev : Device) (off : Nat) (v : Byte) : (s.extWrite dev off v).line = s.line := rfl
@[simp] theorem State.extWrite_img (dev : Device) (off : Nat) (v : Byte) : (s.extWrite dev off v).img = s.img := rfl
@[simp] theorem State.extWrite_cfg (dev : Device) (off : Nat) (v : Byte) : (s.extWrite dev off v).cfg = s.cfg := rfl
@[simp] theorem State.extWrite_pending (dev : Device) (off : Nat) (v : Byte) : (s.extWrite dev off v).pending = s.pending := rfl
@[simp] theorem State.extWrite_response (dev : Device) (off : Nat) (v : Byte) : (s.extWrite dev off v).response = none := rfl
@[simp] theorem State.extWrite_events (dev : Device) (off : Nat) (v : Byte) : (s.extWrite dev off v).events = s.events ++ [.extWrite dev off v] := rfl
@[simp] theorem State.extWrite_taken (dev : Device) (off : Nat) (v : Byte) : (s.extWrite dev off v).taken = s.taken := rfl

@[simp] theorem State.ataRead_bank (off : Nat) : (s.ataRead off).bank = s.bank := rfl
@[simp] theorem State.ataRead_line (off : Nat) : (s.ataRead off).line = s.line := rfl
@[simp] theorem State.ataRead_img (off : Nat) : (s.ataRead off).img = s.img := rfl
@[simp] theorem State.ataRead_cfg (off : Nat) : (s.ataRead off).cfg = s.cfg := rfl
@[simp] theorem State.ataRead_pending (off : Nat) : (s.ataRead off).pending = s.pending := rfl
@[simp] theorem State.ataRead_response (off : Nat) : (s.ataRead off).response = some (diskByte (Config.ataAnswer s.taken s.events off)) := rfl
@[simp] theorem State.ataRead_events (off : Nat) : (s.ataRead off).events = s.events ++ [.ataRead16 off] := rfl
@[simp] theorem State.ataRead_taken (off : Nat) : (s.ataRead off).taken = s.taken := rfl

@[simp] theorem State.ataWrite_bank (off : Nat) (v : Byte) : (s.ataWrite off v).bank = s.bank := rfl
@[simp] theorem State.ataWrite_line (off : Nat) (v : Byte) : (s.ataWrite off v).line = s.line := rfl
@[simp] theorem State.ataWrite_img (off : Nat) (v : Byte) : (s.ataWrite off v).img = s.img := rfl
@[simp] theorem State.ataWrite_cfg (off : Nat) (v : Byte) : (s.ataWrite off v).cfg = s.cfg := rfl
@[simp] theorem State.ataWrite_pending (off : Nat) (v : Byte) : (s.ataWrite off v).pending = s.pending := rfl
@[simp] theorem State.ataWrite_response (off : Nat) (v : Byte) : (s.ataWrite off v).response = none := rfl
@[simp] theorem State.ataWrite_events (off : Nat) (v : Byte) : (s.ataWrite off v).events = s.events ++ [.ataWrite16 off (diskWord v)] := rfl
@[simp] theorem State.ataWrite_taken (off : Nat) (v : Byte) : (s.ataWrite off v).taken = s.taken := rfl

@[simp] theorem State.signal_bank (src : Source) (raw : Bool) : (s.signal src raw).bank = s.bank := rfl
@[simp] theorem State.signal_line (src : Source) (raw : Bool) : (s.signal src raw).line = s.line.set src (some raw) := rfl
@[simp] theorem State.signal_img (src : Source) (raw : Bool) : (s.signal src raw).img = s.img := rfl
@[simp] theorem State.signal_cfg (src : Source) (raw : Bool) : (s.signal src raw).cfg = s.cfg := rfl
@[simp] theorem State.signal_pending (src : Source) (raw : Bool) : (s.signal src raw).pending = s.pending := rfl
@[simp] theorem State.signal_response (src : Source) (raw : Bool) : (s.signal src raw).response = none := rfl
@[simp] theorem State.signal_events (src : Source) (raw : Bool) : (s.signal src raw).events = s.events ++ [.drive (Board.sinkOf src) (sinkValue s.cfg.invert src raw)] := rfl
@[simp] theorem State.signal_taken (src : Source) (raw : Bool) : (s.signal src raw).taken = s.taken := rfl

@[simp] theorem State.writeBank_bank (i : Window) (v : Byte) : (s.writeBank i v).bank = s.bank.set i v := rfl
@[simp] theorem State.writeBank_line (i : Window) (v : Byte) : (s.writeBank i v).line = s.line := rfl
@[simp] theorem State.writeBank_img (i : Window) (v : Byte) : (s.writeBank i v).img = s.img := rfl
@[simp] theorem State.writeBank_cfg (i : Window) (v : Byte) : (s.writeBank i v).cfg = s.cfg := rfl
@[simp] theorem State.writeBank_pending (i : Window) (v : Byte) : (s.writeBank i v).pending = s.pending := rfl
@[simp] theorem State.writeBank_response (i : Window) (v : Byte) : (s.writeBank i v).response = none := rfl
@[simp] theorem State.writeBank_events (i : Window) (v : Byte) : (s.writeBank i v).events = s.events := rfl
@[simp] theorem State.writeBank_taken (i : Window) (v : Byte) : (s.writeBank i v).taken = s.taken := rfl

@[simp] theorem State.resetBanks_bank : (s.resetBanks).bank = Banks.powerOn := rfl
@[simp] theorem State.resetBanks_line : (s.resetBanks).line = s.line := rfl
@[simp] theorem State.resetBanks_img : (s.resetBanks).img = s.img := rfl
@[simp] theorem State.resetBanks_cfg : (s.resetBanks).cfg = s.cfg := rfl
@[simp] theorem State.resetBanks_pending : (s.resetBanks).pending = s.pending := rfl
@[simp] theorem State.resetBanks_response : (s.resetBanks).response = none := rfl
@[simp] theorem State.resetBanks_events : (s.resetBanks).events = s.events := rfl
@[simp] theorem State.resetBanks_taken : (s.resetBanks).taken = s.taken := rfl

@[simp] theorem State.place_bank (w : Container) : (s.place w).bank = s.bank := rfl
@[simp] theorem State.place_line (w : Container) : (s.place w).line = s.line := rfl
@[simp] theorem State.place_img (w : Container) : (s.place w).img = s.img := rfl
@[simp] theorem State.place_cfg (w : Container) : (s.place w).cfg = s.cfg := rfl
@[simp] theorem State.place_pending (w : Container) : (s.place w).pending = w :: s.pending := rfl
@[simp] theorem State.place_response (w : Container) : (s.place w).response = s.response := rfl
@[simp] theorem State.place_events (w : Container) : (s.place w).events = s.events := rfl
@[simp] theorem State.place_taken (w : Container) : (s.place w).taken = s.taken := rfl

end Updates

section PowerOn
variable (cfg : Config) (img : Memory)

@[simp] theorem State.powerOn_bank : (State.powerOn cfg img).bank = Banks.powerOn := rfl
@[simp] theorem State.powerOn_line : (State.powerOn cfg img).line = Lines.powerOn := rfl
@[simp] theorem State.powerOn_img : (State.powerOn cfg img).img = img := rfl
@[simp] theorem State.powerOn_cfg : (State.powerOn cfg img).cfg = cfg := rfl
@[simp] theorem State.powerOn_pending : (State.powerOn cfg img).pending = [] := rfl
@[simp] theorem State.powerOn_response : (State.powerOn cfg img).response = none := rfl
@[simp] theorem State.powerOn_events : (State.powerOn cfg img).events = [] := rfl
@[simp] theorem State.powerOn_taken : (State.powerOn cfg img).taken = 0 := rfl

end PowerOn

end Sys2Proof.Machine
end

