-- ==== Sys2Proof/Laws/Exec.lean ====
section
/-! SUPPORT. What a transaction can do, said once: everything a claim about all transactions needs of `exec`. -/

namespace Sys2Proof.Machine

/-- An I/O transaction that is no bank-port write. -/
def Instr.isPlainIo (i : Instr) : Prop :=
  Board.caller i = some .cpu ∧ Instr.isMemory i = false ∧ Instr.isMemwr i = false ∧ Instr.writesBank i = false

/-- The ways a transaction completes: each by one named update of the state. -/
inductive Completes : Instr → State → State → Prop where
  | read (a : Addr) (s : State) : Completes (.memrd a) s (s.respond (s.img.read (s.phys a)))
  | discard (a : Addr) (d : Byte) (s : State) (h : protect (s.bank.get (window a)) = true) :
      Completes (.memwr a d) s s.done
  | store (a : Addr) (d : Byte) (s : State) (h : protect (s.bank.get (window a)) = false) :
      Completes (.memwr a d) s { s with img := s.img.write (s.phys a) d }.done
  | extRead (i : Instr) (s : State) (dev : Device) (off : Nat) (h : Instr.isPlainIo i) :
      Completes i s (s.extRead dev off)
  | extWrite (i : Instr) (s : State) (dev : Device) (off : Nat) (v : Byte) (h : Instr.isPlainIo i) :
      Completes i s (s.extWrite dev off v)
  | ataRead (i : Instr) (s : State) (off : Nat) (h : Instr.isPlainIo i) : Completes i s (s.ataRead off)
  | ataWrite (i : Instr) (s : State) (off : Nat) (v : Byte) (h : Instr.isPlainIo i) :
      Completes i s (s.ataWrite off v)
  | idle (i : Instr) (s : State) (v : Byte) (h : Instr.isPlainIo i) : Completes i s (s.respond v)
  | ignore (i : Instr) (s : State) (h : Instr.isPlainIo i) : Completes i s s.done
  | writeBank (hi : Byte) (k : Window) (d : Byte) (s : State) :
      Completes (.iowrBank hi k d) s (s.writeBank k d)
  | signal (i : Instr) (s : State) (src : Source) (b : Bool) (h : Board.caller i = some .peripheral)
      (hm : Instr.isMemory i = false) (hb : Instr.writesBank i = false) : Completes i s (s.signal src b)
  | reset (s : State) : Completes .reset s s.resetBanks

/-- A transaction that answers a next state completes in one of these ways. -/
theorem exec_completes {i : Instr} {s t : State} (h : exec i s = .next t) : Completes i s t := by
  have plain : ∀ {j : Instr}, Board.caller j = some .cpu → Instr.isMemory j = false →
      Instr.writesBank j = false → Instr.isPlainIo j := by
    intro j h1 h2 h3
    refine ⟨h1, h2, ?_, h3⟩
    cases j <;> first | rfl | cases h2
  cases i with
  | memrd a => cases h; exact .read a s
  | memwr a d =>
    simp only [exec, execMemwr] at h
    split at h
    · next hp => cases h; exact .discard a d s hp
    · next hp => cases h; exact .store a d s (by simpa only [Bool.not_eq_true] using hp)
  | iordDisk hi o => cases h; exact .ataRead _ s _ (plain rfl rfl rfl)
  | iowrDisk hi o d => cases h; exact .ataWrite _ s _ _ (plain rfl rfl rfl)
  | iordSound hi o => cases h; exact .extRead _ s _ _ (plain rfl rfl rfl)
  | iowrSound hi o d => cases h; exact .extWrite _ s _ _ _ (plain rfl rfl rfl)
  | iordUart hi o => cases h; exact .extRead _ s _ _ (plain rfl rfl rfl)
  | iowrUart hi o d => cases h; exact .extWrite _ s _ _ _ (plain rfl rfl rfl)
  | iordTimer hi o => cases h; exact .extRead _ s _ _ (plain rfl rfl rfl)
  | iowrTimer hi o d => cases h; exact .extWrite _ s _ _ _ (plain rfl rfl rfl)
  | iordVideo hi o => cases h; exact .extRead _ s _ _ (plain rfl rfl rfl)
  | iowrVideo hi o d => cases h; exact .extWrite _ s _ _ _ (plain rfl rfl rfl)
  | iordBank hi k => cases h; exact .idle _ s _ (plain rfl rfl rfl)
  | iowrBank hi k d => cases h; exact .writeBank hi k d s
  | iordUnmapped hi p => cases h; exact .idle _ s _ (plain rfl rfl rfl)
  | iowrUnmapped hi p d => cases h; exact .ignore _ s (plain rfl rfl rfl)
  | signalVideo b => cases h; exact .signal _ s .video b rfl rfl rfl
  | signalSound b => cases h; exact .signal _ s .sound b rfl rfl rfl
  | signalUart b => cases h; exact .signal _ s .uart b rfl rfl rfl
  | signalTimer b => cases h; exact .signal _ s .timer b rfl rfl rfl
  | reset => cases h; exact .reset s
  | reserved110 r => cases h
  | reserved111 r => cases h

end Sys2Proof.Machine
end

