-- ==== Sys2Proof/Laws/Memory.lean ====
section
/-! SUPPORT. The image as data: a read after a write, and that a write keeps the canonical form and the bound. -/

namespace Sys2Proof.Machine

@[simp] theorem Memory.read_nil (off : Nat) : Memory.read [] off = Memory.unlisted := rfl

theorem Memory.read_cons (a : Nat) (v : Byte) (m : Memory) (off : Nat) :
    Memory.read ((a, v) :: m) off = if off = a then v else Memory.read m off := rfl

/-- The canonical form from `lo` on holds from any lower offset. -/
theorem Memory.wfFrom_mono {m : Memory} {lo lo' : Nat} (h : Memory.wfFrom lo m = true) (hle : lo' ≤ lo) :
    Memory.wfFrom lo' m = true := by
  cases m with
  | nil => rfl
  | cons c m =>
    simp only [Memory.wfFrom, Bool.and_eq_true, decide_eq_true_eq] at h ⊢
    exact ⟨⟨by omega, h.1.2⟩, h.2⟩

/-- A canonical image from `lo` on lists nothing below `lo`. -/
theorem Memory.read_below {m : Memory} {lo off : Nat} (h : Memory.wfFrom lo m = true) (hlt : off < lo) :
    Memory.read m off = Memory.unlisted := by
  induction m generalizing lo with
  | nil => rfl
  | cons c m ih =>
    obtain ⟨a, v⟩ := c
    simp only [Memory.wfFrom, Bool.and_eq_true, decide_eq_true_eq] at h
    rw [Memory.read_cons, if_neg (by omega)]
    exact ih h.2 (by omega)

theorem Memory.read_front_self {m : Memory} {off : Nat} (v : Byte)
    (h : Memory.read m off = Memory.unlisted) : Memory.read (Memory.cons off v m) off = v := by
  unfold Memory.cons
  split
  · next hv => rw [h, hv]
  · simp [Memory.read_cons]

theorem Memory.read_front_ne {m : Memory} {off x : Nat} (v : Byte) (hne : x ≠ off) :
    Memory.read (Memory.cons off v m) x = Memory.read m x := by
  unfold Memory.cons
  split
  · rfl
  · rw [Memory.read_cons, if_neg hne]

theorem Memory.wfFrom_front {m : Memory} {off lo : Nat} (v : Byte)
    (h : Memory.wfFrom (off + 1) m = true) (hlo : lo ≤ off) :
    Memory.wfFrom lo (Memory.cons off v m) = true := by
  unfold Memory.cons
  split
  · exact Memory.wfFrom_mono h (by omega)
  · next hv => simp [Memory.wfFrom, hlo, hv, h]

/-- Everything a write does to the canonical form from `lo` on. -/
theorem Memory.wfFrom_write {m : Memory} {lo : Nat} (off : Nat) (v : Byte)
    (h : Memory.wfFrom lo m = true) (hlo : lo ≤ off) : Memory.wfFrom lo (Memory.write m off v) = true := by
  induction m generalizing lo with
  | nil => exact Memory.wfFrom_front v rfl hlo
  | cons c m ih =>
    obtain ⟨a, x⟩ := c
    simp only [Memory.wfFrom, Bool.and_eq_true, decide_eq_true_eq] at h
    unfold Memory.write
    split
    · exact Memory.wfFrom_front v (by simp [Memory.wfFrom, h.1.2, h.2]; omega) hlo
    · split
      · next _ heq => exact Memory.wfFrom_front v (heq ▸ h.2) hlo
      · have := ih h.2 (by omega)
        simp [Memory.wfFrom, h.1.1, h.1.2, this]

/-- A write keeps the canonical form. -/
theorem Memory.wf_write {m : Memory} (off : Nat) (v : Byte) (h : m.wf = true) : (m.write off v).wf = true :=
  Memory.wfFrom_write off v h (Nat.zero_le off)

theorem Memory.read_write_self_from {m : Memory} {lo : Nat} (off : Nat) (v : Byte)
    (h : Memory.wfFrom lo m = true) : Memory.read (Memory.write m off v) off = v := by
  induction m generalizing lo with
  | nil => exact Memory.read_front_self v rfl
  | cons c m ih =>
    obtain ⟨a, x⟩ := c
    simp only [Memory.wfFrom, Bool.and_eq_true, decide_eq_true_eq] at h
    unfold Memory.write
    split
    · next hlt =>
      refine Memory.read_front_self v ?_
      rw [Memory.read_cons, if_neg (by omega)]
      exact Memory.read_below h.2 (by omega)
    · split
      · next _ heq => exact Memory.read_front_self v (Memory.read_below h.2 (by omega))
      · next _ hne =>
        rw [Memory.read_cons, if_neg hne]
        exact ih h.2

/-- A read of the offset written gives the byte written. -/
theorem Memory.read_write_self {m : Memory} (off : Nat) (v : Byte) (h : m.wf = true) :
    (m.write off v).read off = v := Memory.read_write_self_from off v h

/-- A write leaves every other offset as it was. -/
theorem Memory.read_write_ne (m : Memory) {off x : Nat} (v : Byte) (hne : x ≠ off) :
    (m.write off v).read x = m.read x := by
  induction m with
  | nil => exact Memory.read_front_ne v hne
  | cons c m ih =>
    obtain ⟨a, y⟩ := c
    unfold Memory.write
    split
    · exact Memory.read_front_ne v hne
    · split
      · next _ heq => rw [Memory.read_front_ne v hne, Memory.read_cons, if_neg (heq ▸ hne)]
      · rw [Memory.read_cons, Memory.read_cons, ih]

theorem Memory.within_front {m : Memory} {n off : Nat} (v : Byte) (h : m.within n = true) (hoff : off < n) :
    (Memory.cons off v m).within n = true := by
  unfold Memory.cons
  split
  · exact h
  · simpa [Memory.within, hoff] using h

/-- A write inside the bound keeps the image inside it. -/
theorem Memory.within_write {m : Memory} {n off : Nat} (v : Byte) (h : m.within n = true) (hoff : off < n) :
    (m.write off v).within n = true := by
  induction m with
  | nil => exact Memory.within_front v h hoff
  | cons c m ih =>
    obtain ⟨a, x⟩ := c
    have hc : a < n ∧ Memory.within n m = true := by simpa [Memory.within] using h
    unfold Memory.write
    split
    · exact Memory.within_front v h hoff
    · split
      · exact Memory.within_front v hc.2 hoff
      · simpa [Memory.within, hc.1] using ih hc.2

end Sys2Proof.Machine
end

