-- ==== Sys2Proof/Laws/Operands.lean ====
section
/-! SUPPORT. The registers, the lines, and the operands of a memory address in plain arithmetic. -/

namespace Sys2Proof.Machine

theorem window_cases (i : Window) : i = 0 ∨ i = 1 ∨ i = 2 ∨ i = 3 := by
  revert i
  decide

@[simp] theorem Banks.get_set_self (b : Banks) (i : Window) (v : Byte) : (b.set i v).get i = v := by
  rcases window_cases i with rfl | rfl | rfl | rfl <;> rfl

theorem Banks.get_set_ne (b : Banks) {i j : Window} (v : Byte) (h : j ≠ i) :
    (b.set i v).get j = b.get j := by
  rcases window_cases i with rfl | rfl | rfl | rfl <;>
    rcases window_cases j with rfl | rfl | rfl | rfl <;> first | rfl | exact absurd rfl h

@[simp] theorem Lines.get_set_self (l : Lines) (src : Source) (v : Option Bool) :
    (l.set src v).get src = v := by
  cases src <;> rfl

theorem Lines.get_set_ne (l : Lines) {src src' : Source} (v : Option Bool) (h : src' ≠ src) :
    (l.set src v).get src' = l.get src' := by
  cases src <;> cases src' <;> first | rfl | exact absurd rfl h

/-- Every sink but channel 2 is the sink of its source, and a source feeds its own sink only (R140). -/
theorem sourceOf_eq_some (k : Sink) (src : Source) : Board.sourceOf k = some src ↔ Board.sinkOf src = k := by
  cases k <;> cases src <;> simp [Board.sourceOf, Board.sinkOf]

theorem page_toNat (reg : Byte) : (page reg).toNat = reg.toNat % 128 := by
  simp [page]

theorem protect_eq (reg : Byte) : protect reg = decide (128 ≤ reg.toNat) := by
  revert reg
  decide

theorem window_toNat (a : Addr) : (window a).toNat = a.toNat / 16384 := by
  have := a.isLt
  simp [window, Nat.shiftRight_eq_div_pow]
  omega

theorem inWindow_toNat (a : Addr) : (inWindow a).toNat = a.toNat % 16384 := by
  simp [inWindow]

theorem Banks.translate_toNat (b : Banks) (a : Addr) :
    (b.translate a).toNat = (b.get (window a)).toNat % 128 * 16384 + a.toNat % 16384 := by
  have hp := (page (b.get (window a))).isLt
  rw [page_toNat] at hp
  unfold Banks.translate
  simp only [BitVec.toNat_add, BitVec.toNat_mul, BitVec.toNat_setWidth, page_toNat, inWindow_toNat,
    BitVec.ofNat_eq_ofNat, BitVec.toNat_ofNat]
  omega

/-- The image offset of a memory access in plain arithmetic (R42, R43). -/
theorem State.phys_eq (s : State) (a : Addr) :
    s.phys a = ((s.bank.get (window a)).toNat % 128 * 16384 + a.toNat % 16384) % s.cfg.imageSize := by
  rw [State.phys, clamp, Banks.translate_toNat]

theorem State.phys_lt (s : State) (a : Addr) (h : s.cfg.wf) : s.phys a < s.cfg.imageSize :=
  Nat.mod_lt _ h.1

end Sys2Proof.Machine
end

