-- ==== Sys2Proof/Laws/PerInstr.lean ====
section
/-! SUPPORT. Facts stated for every constructor of Instr, one lemma each: the word of an instruction fits the 27 bits of
a transaction word (R60). -/

namespace Sys2Proof.Laws.EncodeFits

/-- The encoded word has no bit above bit 26. -/
def Statement (i : Instr) : Prop := (encode i).toNat < 2 ^ 27

theorem memrd (addr : Addr) : Statement (.memrd addr) := Word.pack_lt _ _ _
theorem memwr (addr : Addr) (data : Byte) : Statement (.memwr addr data) := Word.pack_lt _ _ _
theorem iordDisk (hi : Byte) (off : BitVec 3) : Statement (.iordDisk hi off) := Word.pack_lt _ _ _
theorem iowrDisk (hi : Byte) (off : BitVec 3) (data : Byte) : Statement (.iowrDisk hi off data) := Word.pack_lt _ _ _
theorem iordSound (hi : Byte) (off : BitVec 1) : Statement (.iordSound hi off) := Word.pack_lt _ _ _
theorem iowrSound (hi : Byte) (off : BitVec 1) (data : Byte) : Statement (.iowrSound hi off data) := Word.pack_lt _ _ _
theorem iordUart (hi : Byte) (off : BitVec 3) : Statement (.iordUart hi off) := Word.pack_lt _ _ _
theorem iowrUart (hi : Byte) (off : BitVec 3) (data : Byte) : Statement (.iowrUart hi off data) := Word.pack_lt _ _ _
theorem iordTimer (hi : Byte) (off : BitVec 2) : Statement (.iordTimer hi off) := Word.pack_lt _ _ _
theorem iowrTimer (hi : Byte) (off : BitVec 2) (data : Byte) : Statement (.iowrTimer hi off data) := Word.pack_lt _ _ _
theorem iordVideo (hi : Byte) (off : BitVec 2) : Statement (.iordVideo hi off) := Word.pack_lt _ _ _
theorem iowrVideo (hi : Byte) (off : BitVec 2) (data : Byte) : Statement (.iowrVideo hi off data) := Word.pack_lt _ _ _
theorem iordBank (hi : Byte) (index : Window) : Statement (.iordBank hi index) := Word.pack_lt _ _ _
theorem iowrBank (hi : Byte) (index : Window) (data : Byte) : Statement (.iowrBank hi index data) := Word.pack_lt _ _ _
theorem iordUnmapped (hi port : Byte) : Statement (.iordUnmapped hi port) := Word.pack_lt _ _ _
theorem iowrUnmapped (hi port : Byte) (data : Byte) : Statement (.iowrUnmapped hi port data) := Word.pack_lt _ _ _
theorem signalVideo (asserted : Bool) : Statement (.signalVideo asserted) := Word.pack_lt _ _ _
theorem signalSound (asserted : Bool) : Statement (.signalSound asserted) := Word.pack_lt _ _ _
theorem signalUart (asserted : Bool) : Statement (.signalUart asserted) := Word.pack_lt _ _ _
theorem signalTimer (asserted : Bool) : Statement (.signalTimer asserted) := Word.pack_lt _ _ _
theorem reset : Statement (.reset) := Word.pack_lt _ _ _
theorem reserved110 (rest : BitVec 24) : Statement (.reserved110 rest) := Word.packRest_lt _ _
theorem reserved111 (rest : BitVec 24) : Statement (.reserved111 rest) := Word.packRest_lt _ _

end Sys2Proof.Laws.EncodeFits
end

