-- ==== Sys2Proof/Laws/Step.lean ====
section
/-! SUPPORT. What a step can do, said once: everything a claim about steps needs of `step`. -/

namespace Sys2Proof.Machine

/-- A step that answers a next state either found no call waiting, or took one and ran its transaction. -/
theorem step_next_cases {s t : State} (h : step s = .next t) :
    s.cfg.wf ∧ ((s.pending = [] ∧ t = s) ∨
      ∃ w ws i, s.pending = w :: ws ∧ decode w = .ok i ∧
        exec i { s with pending := ws, taken := s.taken + 1 } = .next t) := by
  unfold step fetch at h
  split at h
  · next hwf =>
    refine ⟨hwf, ?_⟩
    cases hp : s.pending with
    | nil =>
      rw [hp] at h
      exact .inl ⟨rfl, by simpa using h.symm⟩
    | cons w ws =>
      simp only [hp] at h
      cases hd : decode w with
      | error why => simp [hd] at h
      | ok i => exact .inr ⟨w, ws, i, rfl, hd, by simpa [hd] using h⟩
  · cases h

/-- A meaning never faults (R160). -/
theorem exec_ne_fault (i : Instr) (s : State) (f : Fault) : exec i s ≠ .fault f := by
  cases i <;> simp only [exec] <;> first
    | (intro h; cases h)
    | (unfold execMemwr; split <;> intro h <;> cases h)

/-- A meaning is refused only for a reserved kind (R70). -/
theorem exec_refused {i : Instr} {s : State} {r : Refusal} (h : exec i s = .refused r) :
    (∃ x, i = .reserved110 x) ∨ ∃ x, i = .reserved111 x := by
  cases i <;> simp only [exec] at h <;> first
    | (exact .inl ⟨_, rfl⟩)
    | (exact .inr ⟨_, rfl⟩)
    | (cases h)
    | (unfold execMemwr at h; split at h <;> cases h)

end Sys2Proof.Machine
end

