-- ==== Sys2Proof/Machine/Text.lean ====
section
/-! DEFINITION. The transaction syntax of R73. The machine does not read it. DESIGN CHOICE (log 33): hexadecimal digits
are capitals, an I/O address is written with all four digits, and the response is not written. -/

namespace Sys2Proof

/-- A hexadecimal digit. -/
def hexDigit (n : Nat) : Char := ("0123456789ABCDEF".toList)[n]?.getD '?'

/-- `<byte>`, two hexadecimal digits. -/
def hexByte (b : Byte) : String := "0x" ++ String.ofList [hexDigit (b.toNat / 16), hexDigit (b.toNat % 16)]

/-- `<addr16>`, four hexadecimal digits. -/
def hexAddr (a : Addr) : String :=
  "0x" ++ String.ofList [hexDigit (a.toNat / 4096), hexDigit (a.toNat / 256 % 16),
    hexDigit (a.toNat / 16 % 16), hexDigit (a.toNat % 16)]

/-- A signal level. -/
def levelText (b : Bool) : String := if b then "1" else "0"

/-- `IORD <ioaddr16>`. -/
def iordText (i : Instr) : String := "IORD " ++ hexAddr (Word.addr (encode i))

/-- `IOWR <ioaddr16>, <byte>`. -/
def iowrText (i : Instr) : String :=
  "IOWR " ++ hexAddr (Word.addr (encode i)) ++ ", " ++ hexByte (Word.data (encode i))

/-- The text of a transaction (R73): the reserved kinds have none. -/
def Instr.text : Instr → Option String
  | .memrd addr => some ("MEMRD " ++ hexAddr addr)
  | .memwr addr data => some ("MEMWR " ++ hexAddr addr ++ ", " ++ hexByte data)
  | .iordDisk hi off => some (iordText (.iordDisk hi off))
  | .iowrDisk hi off data => some (iowrText (.iowrDisk hi off data))
  | .iordSound hi off => some (iordText (.iordSound hi off))
  | .iowrSound hi off data => some (iowrText (.iowrSound hi off data))
  | .iordUart hi off => some (iordText (.iordUart hi off))
  | .iowrUart hi off data => some (iowrText (.iowrUart hi off data))
  | .iordTimer hi off => some (iordText (.iordTimer hi off))
  | .iowrTimer hi off data => some (iowrText (.iowrTimer hi off data))
  | .iordVideo hi off => some (iordText (.iordVideo hi off))
  | .iowrVideo hi off data => some (iowrText (.iowrVideo hi off data))
  | .iordBank hi index => some (iordText (.iordBank hi index))
  | .iowrBank hi index data => some (iowrText (.iowrBank hi index data))
  | .iordUnmapped hi port => some (iordText (.iordUnmapped hi port))
  | .iowrUnmapped hi port data => some (iowrText (.iowrUnmapped hi port data))
  | .signalVideo b => some ("SIGNAL VIDEO, " ++ levelText b)
  | .signalSound b => some ("SIGNAL SOUND, " ++ levelText b)
  | .signalUart b => some ("SIGNAL UART, " ++ levelText b)
  | .signalTimer b => some ("SIGNAL TIMER, " ++ levelText b)
  | .reset => some "RESET"
  | .reserved110 _ => none
  | .reserved111 _ => none

end Sys2Proof
end

