-- ==== Sys2Proof/Tests/Slice0.lean ====
section
/-! SUPPORT. The model's own tests, their expected results taken from the spec's test vectors (95_test_vectors.md) and
examples, and for each statement with hypotheses a named witness that meets them. -/

namespace Sys2Proof.Tests

open Sys2Proof Sys2Proof.Machine

/-- The state of an outcome that answers one. -/
def after (o : Host.Outcome State Fault Refusal) : Option State :=
  match o with
  | .next s => some s
  | .fault _ => none
  | .refused _ => none

/-- The reason of a refusal. -/
def whyRefused (o : Host.Outcome State Fault Refusal) : Option Refusal :=
  match o with
  | .next _ => none
  | .fault _ => none
  | .refused r => some r

/-- The reset state with these calls waiting. -/
def waiting (ws : List Container) : State := { State.reset with pending := ws }

/-- The reset state with bank register 2 at this value and these image bytes. -/
def withBank2 (v : Byte) (img : Memory) : State :=
  { State.reset with bank := State.reset.bank.set 2 v, img := img }

/-- The reset state with this image size. -/
def sized (n : Nat) : State := { State.reset with cfg := { State.reset.cfg with imageSize := n } }

/-! ## Well-formedness: the checks refuse an ill-formed term -/

theorem test_wf_iord_refuses_mapped_port : (Instr.iordUnmapped 0x00 0x18).wf = false := by decide
theorem test_wf_iowr_refuses_mapped_port : (Instr.iowrUnmapped 0x00 0xFC 0x12).wf = false := by decide
theorem test_wf_accepts_unmapped_port : (Instr.iordUnmapped 0x5A 0x40).wf = true := by decide
/-- R163: a row that claims port 0x11 beside the sound handler's. -/
theorem test_wiring_refuses_overlap :
    Board.check { Board.wiring defaultConfig with handlers := ⟨0x11, 0x12, .uart⟩ :: Board.handlers } =
      .error .conflictingPortRange := by decide
/-- R163: window 2 bound to two registers. -/
theorem test_wiring_refuses_double_binding :
    Board.check { Board.wiring defaultConfig with bindings := (2, 0) :: Board.bindings } =
      .error .conflictingWindowBinding := by decide
/-- R163: a register file of three. -/
theorem test_wiring_refuses_three_registers :
    Board.check { Board.wiring defaultConfig with registers := 3 } =
      .error .conflictingWindowBinding := by decide
/-- Log 32: window 3's one register listed twice. -/
theorem test_wiring_refuses_repeated_binding :
    Board.check { Board.wiring defaultConfig with bindings := (3, 3) :: Board.bindings } =
      .error .conflictingWindowBinding := by decide
theorem test_wiring_refuses_empty_image :
    Board.check (Board.wiring { defaultConfig with imageSize := 0 }) = .error .badImageSize := by decide
theorem test_wiring_refuses_large_image :
    Board.check (Board.wiring { defaultConfig with imageSize := 0x200001 }) = .error .badImageSize := by decide
theorem test_wiring_accepts_one_byte :
    Board.check (Board.wiring { defaultConfig with imageSize := 1 }) = .ok () := by decide

/-! ## Decoding: words written out from R60 to R66, kind, high address byte, port bits, data -/

theorem test_decode_memrd : decode 0b00000_000_1000000100100011_00000000#32 = .ok (.memrd 0x8123) := by decide
theorem test_decode_memwr :
    decode 0b00000_001_0001000000000000_01000010#32 = .ok (.memwr 0x1000 0x42) := by decide
theorem test_decode_iordDisk :
    decode 0b00000_010_00000011_00001000_00000000#32 = .ok (.iordDisk 0x03 0) := by decide
theorem test_decode_iowrDisk :
    decode 0b00000_011_00000000_00001111_11101100#32 = .ok (.iowrDisk 0x00 7 0xEC) := by decide
theorem test_decode_iordSound :
    decode 0b00000_010_01000101_00010001_00000000#32 = .ok (.iordSound 0x45 1) := by decide
theorem test_decode_iowrSound :
    decode 0b00000_011_00000000_00010000_00000111#32 = .ok (.iowrSound 0x00 0 0x07) := by decide
theorem test_decode_iordUart :
    decode 0b00000_010_00000000_00011101_00000000#32 = .ok (.iordUart 0x00 5) := by decide
theorem test_decode_iowrUart :
    decode 0b00000_011_00000000_00011000_01000001#32 = .ok (.iowrUart 0x00 0 0x41) := by decide
theorem test_decode_iordTimer :
    decode 0b00000_010_00000000_00100011_00000000#32 = .ok (.iordTimer 0x00 3) := by decide
theorem test_decode_iowrTimer :
    decode 0b00000_011_00000000_00100001_10000101#32 = .ok (.iowrTimer 0x00 1 0x85) := by decide
theorem test_decode_iordVideo :
    decode 0b00000_010_00000000_10011001_00000000#32 = .ok (.iordVideo 0x00 1) := by decide
theorem test_decode_iowrVideo :
    decode 0b00000_011_00000000_10011011_00000000#32 = .ok (.iowrVideo 0x00 3 0x00) := by decide
theorem test_decode_iordBank :
    decode 0b00000_010_11111111_11111110_00000000#32 = .ok (.iordBank 0xFF 2) := by decide
theorem test_decode_iowrBank :
    decode 0b00000_011_00010010_11111110_00110011#32 = .ok (.iowrBank 0x12 2 0x33) := by decide
theorem test_decode_iordUnmapped :
    decode 0b00000_010_11111111_01000000_00000000#32 = .ok (.iordUnmapped 0xFF 0x40) := by decide
theorem test_decode_iowrUnmapped :
    decode 0b00000_011_00000000_11111011_00000000#32 = .ok (.iowrUnmapped 0x00 0xFB 0x00) := by decide
theorem test_decode_signalVideo :
    decode 0b00000_100_0000000000000000_00000001#32 = .ok (.signalVideo true) := by decide
theorem test_decode_signalSound :
    decode 0b00000_100_0000000000000001_00000000#32 = .ok (.signalSound false) := by decide
theorem test_decode_signalUart :
    decode 0b00000_100_0000000000000010_00000001#32 = .ok (.signalUart true) := by decide
theorem test_decode_signalTimer :
    decode 0b00000_100_0000000000000011_00000000#32 = .ok (.signalTimer false) := by decide
theorem test_decode_reset : decode 0b00000_101_0000000000000000_00000000#32 = .ok .reset := by decide
theorem test_decode_reserved110 : decode 0x6000000 = .ok (.reserved110 0) := by decide
theorem test_decode_reserved111 : decode 0x7123456 = .ok (.reserved111 0x123456) := by decide

/-- The refused words of section 2.6. -/
theorem test_decode_refuses :
    decode 0x0000001 = .error .memrdData ∧ decode 0x2004001 = .error .iordData ∧
    decode 0x4000401 = .error .signalAddr ∧ decode 0x4000002 = .error .signalData ∧
    decode 0x5000001 = .error .resetData ∧ decode 0x5000100 = .error .resetAddr ∧
    decode 0x8000000 = .error .bitAbove26 := by decide

/-- The boundary ports of section 2.3: which row each selects. -/
theorem test_decode_boundary_ports :
    [0x00, 0x07, 0x08, 0x0F, 0x10, 0x11, 0x12, 0x17, 0x18, 0x1F, 0x20, 0x23, 0x24].map
      (fun a : Addr => (decodeIord a).mnemonic) =
      ["IORD.UNMAPPED", "IORD.UNMAPPED", "IORD.DISK", "IORD.DISK", "IORD.SOUND", "IORD.SOUND",
       "IORD.UNMAPPED", "IORD.UNMAPPED", "IORD.UART", "IORD.UART", "IORD.TIMER", "IORD.TIMER",
       "IORD.UNMAPPED"] ∧
    [0x97, 0x98, 0x9B, 0x9C, 0xFB, 0xFC, 0xFF, 0x4511, 0x12FE, 0xFF40].map
      (fun a : Addr => (decodeIowr a 0).mnemonic) =
      ["IOWR.UNMAPPED", "IOWR.VIDEO", "IOWR.VIDEO", "IOWR.UNMAPPED", "IOWR.UNMAPPED", "IOWR.BANK",
       "IOWR.BANK", "IOWR.SOUND", "IOWR.BANK", "IOWR.UNMAPPED"] := by decide

/-- The host's view of a word is the spec's numbering of its bits. -/
theorem test_decodeTableWord : decodeTableWord 32 0x2000800 = some (.iordDisk 0 0) := by decide
theorem test_withFetchWord_runs :
    (after (step (State.reset.withFetchWord 32 0x200FC00))).map (·.response) = some (some 0xFF) := by decide

/-- The syntax of R73. -/
theorem test_text_iowr : (Instr.iowrBank 0x00 0 0x00).text = some "IOWR 0x00FC, 0x00" := by decide

/-! ## Translation and clamp, section 2.1 -/

theorem test_translate_page_69 : (withBank2 0x40 []).bank.translate 0x8001 = 0x100001 := by decide
theorem test_translate_top : ((State.reset.bank.set 3 0xFF).translate 0xFFFF).toNat = 0x1FFFFF := by decide
theorem test_clamp_wraps :
    clamp 0x200000 0x1FFFFF = 0x1FFFFF ∧ clamp 0x10000 0x014123 = 0x004123 ∧
    clamp 0x6000 0x005FFF = 0x005FFF ∧ clamp 0x6000 0x006000 = 0 ∧ clamp 0x6000 0x008000 = 0x002000 ∧
    clamp 1 0x1FFFFF = 0 := by decide

/-! ## One step of each transaction -/

/-- R80's example: `bank[2] = 0x05`, `img[0x14123] = 0x5A`. -/
theorem test_memrd_translates :
    (after (exec (.memrd 0x8123) (withBank2 0x05 [(0x14123, 0x5A)]))).map (·.response) =
      some (some 0x5A) := by decide
/-- A protected window reads like a writable one (R80). -/
theorem test_memrd_reads_protected :
    (after (exec (.memrd 0x8000) (withBank2 0x82 [(0x8000, 0x34)]))).map (·.response) =
      some (some 0x34) := by decide
/-- M1: the write is discarded. -/
theorem test_memwr_protected :
    (after (exec (.memwr 0x0000 0x99) State.reset)).map (·.img) = some [] := by decide
/-- M4: window 1 writes page 0. -/
theorem test_memwr_lands :
    (after (exec (.memwr 0x4000 0x12) State.reset)).map (·.img) = some [(0x0000, 0x12)] := by decide
/-- P4, step 2: the write wraps in a 64 KB image. -/
theorem test_memwr_wraps :
    (after (exec (.memwr 0x4123 0xAB) { sized 0x10000 with bank := State.reset.bank.set 1 0x05 })).map (·.img) =
      some [(0x4123, 0xAB)] := by decide

theorem test_iordDisk_event :
    (after (exec (.iordDisk 0x00 7) State.reset)).map (·.events) = some [.ataRead16 7] := by decide
/-- The low byte of the answered word, with the oracle answers of section 2.3. -/
theorem test_disk_lane : diskByte 0x1250 = 0x50 ∧ diskByte 0xBEEF = 0xEF := by decide
theorem test_iowrDisk_word :
    (after (exec (.iowrDisk 0x00 6 0xEC) State.reset)).map (·.events) = some [.ataWrite16 6 0x00EC] := by decide
theorem test_iordSound_offset :
    (after (exec (.iordSound 0x45 1) State.reset)).map (·.events) = some [.extRead .sound 1] := by decide
theorem test_iowrSound_byte :
    (after (exec (.iowrSound 0x00 0 0x07) State.reset)).map (·.events) = some [.extWrite .sound 0 0x07] := by
  decide
theorem test_iordUart_offset :
    (after (exec (.iordUart 0x00 5) State.reset)).map (·.events) = some [.extRead .uart 5] := by decide
theorem test_iowrUart_byte :
    (after (exec (.iowrUart 0x00 0 0x41) State.reset)).map (·.events) = some [.extWrite .uart 0 0x41] := by decide
theorem test_iordTimer_offset :
    (after (exec (.iordTimer 0x00 3) State.reset)).map (·.events) = some [.extRead .timer 3] := by decide
theorem test_iowrTimer_byte :
    (after (exec (.iowrTimer 0x00 1 0x85) State.reset)).map (·.events) = some [.extWrite .timer 1 0x85] := by
  decide
theorem test_iordVideo_offset :
    (after (exec (.iordVideo 0x00 1) State.reset)).map (·.events) = some [.extRead .video 1] := by decide
theorem test_iowrVideo_byte :
    (after (exec (.iowrVideo 0x00 3 0x00) State.reset)).map (·.events) = some [.extWrite .video 3 0x00] := by
  decide
/-- R111's example: the register is not read back. -/
theorem test_iordBank_idle :
    (after (exec (.iordBank 0x00 2) (withBank2 0x12 []))).map (·.response) = some (some 0xFF) := by decide
theorem test_iowrBank_stores :
    (after (exec (.iowrBank 0x12 2 0x33) State.reset)).map (fun t => (t.bank, t.bank.base 2, t.bank.writeBind 2)) =
      some ({ bank0 := 0x80, bank1 := 0x00, bank2 := 0x33, bank3 := 0x03 }, 0x0CC000, some 0x0CC000) := by decide
theorem test_iowrBank_protects :
    (after (exec (.iowrBank 0x00 3 0xFF) State.reset)).map (fun t => (t.bank.base 3, t.bank.writeBind 3)) =
      some (0x1FC000, none) := by decide
theorem test_iordUnmapped_idle :
    (after (exec (.iordUnmapped 0x00 0x40) State.reset)).map (·.response) = some (some 0xFF) := by decide
theorem test_iowrUnmapped_no_effect :
    after (exec (.iowrUnmapped 0x00 0xFB 0x00) State.reset) = some State.reset := by decide
/-- S7 and section 2.4, with the default polarity. -/
theorem test_signalVideo_inverts :
    (after (exec (.signalVideo true) State.reset)).map (fun t => (t.line.video, t.events)) =
      some (some true, [.drive .trg0 false]) := by decide
theorem test_signalSound_inverts :
    (after (exec (.signalSound false) State.reset)).map (fun t => (t.line.sound, t.events)) =
      some (some false, [.drive .trg1 true]) := by decide
theorem test_signalUart_copies :
    (after (exec (.signalUart true) State.reset)).map (fun t => (t.line.uart, t.events)) =
      some (some true, [.drive .trg3 true]) := by decide
theorem test_signalTimer_copies :
    (after (exec (.signalTimer false) State.reset)).map (fun t => (t.line.timer, t.events)) =
      some (some false, [.drive .intreq false]) := by decide
/-- Section 2.4, the all-false polarity. -/
theorem test_signalVideo_without_inversion :
    (after (exec (.signalVideo true)
      { State.reset with cfg := { State.reset.cfg with invert := ⟨false, false, false, false⟩ } })).map (·.events) =
      some [.drive .trg0 true] := by decide
/-- Section 2.5. -/
theorem test_reset_restores_banks_only :
    (after (exec .reset { State.reset with
      bank := ⟨0x12, 0x34, 0x56, 0x78⟩, line := { Lines.powerOn with uart := some true },
      img := [(0, 0xAA)] })) =
      some { State.reset with line := { Lines.powerOn with uart := some true }, img := [(0, 0xAA)] } := by decide
theorem test_reserved_refused :
    whyRefused (step (waiting [0x6000000])) = some .reservedKind110 ∧
    whyRefused (step (waiting [0x7123456])) = some .reservedKind111 ∧
    whyRefused (step (waiting [0x8000000])) = some (.badWord .bitAbove26) := by decide

/-! ## Memory keeps its canonical form -/

theorem test_write_unlisted_byte_removes : Memory.write [(3, 1), (5, 2), (9, 4)] 5 0x00 = [(3, 1), (9, 4)] := by
  decide
theorem test_write_inserts_in_order : Memory.write [(3, 1), (9, 4)] 5 0x02 = [(3, 1), (5, 2), (9, 4)] := by decide

/-! ## Witnesses: concrete states that meet the hypotheses of each statement -/

theorem witness_DecodeEncodeRoundTrip : (Instr.iowrUnmapped 0xFF 0x9C 0x12).wf = true := by decide
theorem witness_EncodeDecodeRoundTrip : decode 0x1FFFF56 = .ok (.memwr 0xFFFF 0x56) := by decide
theorem witness_RefusedExactlyOutsideTheContracts :
    (waiting [0x8000000]).cfg.wf ∧ (waiting [0x8000000]).pending = 0x8000000 :: [] ∧
    whyRefused (step (waiting [0x8000000])) ≠ none ∧ whyRefused (step (waiting [0x5000000])) = none := by decide
theorem witness_StepRunsTheDecodedTransaction :
    (waiting [0x1400012]).cfg.wf ∧ (waiting [0x1400012]).pending = 0x1400012 :: [] ∧
    decode 0x1400012 = .ok (.memwr 0x4000 0x12) := by decide
theorem witness_StepWithNoCallIsIdle : State.reset.cfg.wf ∧ State.reset.pending = [] := by decide
theorem witness_StepExtendsTheEventRecord :
    ∃ s t : State, step s = .next t ∧ t.events = s.events ++ [.drive .trg3 true] :=
  ⟨waiting [0x4000201], _, rfl, by decide⟩
theorem witness_StepKeepsTheWiringParameters : ∃ s t : State, step s = .next t ∧ t ≠ s :=
  ⟨waiting [0x300FE80], _, rfl, by decide⟩
theorem witness_StepKeepsTheImageWellFormed :
    ∃ s t : State, s.inv ∧ step s = .next t ∧ t.img = [(0, 0x12)] :=
  ⟨waiting [0x1400012], _, by decide, rfl, by decide⟩
theorem witness_StepKeepsSinksFollowingTheirLines :
    ∃ s t : State, s.sinksFollow ∧ step s = .next t ∧ t.sinkLevel .trg0 = some false :=
  ⟨waiting [0x4000001], _, fun k => by cases k <;> rfl, rfl, by decide⟩
theorem witness_PowerOnStateIsSafe :
    (sized 1).cfg.wf ∧ Memory.wf [(0, 0xC3)] = true ∧
    Memory.within (sized 1).cfg.imageSize [(0, 0xC3)] = true := by decide
theorem witness_MappingAfterReset : ∃ s r : State, exec .reset s = .next r ∧ r ≠ s :=
  ⟨withBank2 0x7F [], _, rfl, by decide⟩
/-- R183 and R84 at the edges of the windows: where a write lands, and what a read answers, after a reset. -/
theorem witness_MappingAfterReset_write_edges :
    [0x3FFF, 0x4000, 0x7FFF, 0x8000, 0xBFFF, 0xC000].map (fun a : Addr =>
      (after (execAll [.reset, .memwr a 0x5A] (withBank2 0x7F []))).map (·.img)) =
      [some [], some [(0x0000, 0x5A)], some [(0x3FFF, 0x5A)], some [(0x8000, 0x5A)], some [(0xBFFF, 0x5A)],
       some [(0xC000, 0x5A)]] := by decide
theorem witness_MappingAfterReset_read_edges :
    [0x3FFF, 0x4000, 0x7FFF, 0x8000].map (fun a : Addr =>
      (after (execAll [.reset, .memrd a] (withBank2 0x7F [(0x0000, 1), (0x3FFF, 2), (0x8000, 3)]))).map
        (·.response)) = [some (some 2), some (some 1), some (some 2), some (some 3)] := by decide
theorem witness_BankRegistersChangeOnlyByBankPortOrReset :
    (∃ s t : State, exec (.iowrBank 0 3 0x80) s = .next t ∧ t.bank ≠ s.bank) ∧
    ∃ s t : State, exec .reset s = .next t ∧ t.bank ≠ s.bank :=
  ⟨⟨State.reset, _, rfl, by decide⟩, withBank2 0x7F [], _, rfl, by decide⟩
theorem witness_OnlyTheMapperReachesTheImage :
    Instr.isMemory (.iowrBank 0 0 0) = false ∧ ∃ t, exec (.iowrBank 0 0 0) State.reset = .next t :=
  ⟨rfl, _, rfl⟩
theorem witness_AnImageByteChangesOnlyByALandedWrite :
    ∃ s t : State, s.img.wf = true ∧ exec (.memwr 0xFFFF 0x56) s = .next t ∧
      t.img.read 0xFFFF ≠ s.img.read 0xFFFF :=
  ⟨State.reset, _, rfl, rfl, by decide⟩
theorem witness_EachCallerChangesItsOwnPartOnly :
    (∃ t, exec (.iowrTimer 0 1 0x85) State.reset = .next t ∧ Board.caller (.iowrTimer 0 1 0x85) = some .cpu) ∧
    (∃ t, exec (.signalTimer true) State.reset = .next t ∧
      Board.caller (.signalTimer true) = some .peripheral) ∧
    ∃ t, exec .reset State.reset = .next t ∧ Board.caller .reset = some .host :=
  ⟨⟨_, rfl, rfl⟩, ⟨_, rfl, rfl⟩, _, rfl, rfl⟩
theorem witness_MemwrThroughAWritableWindowStoresOneByte :
    State.reset.img.wf = true ∧
    (State.reset.bank.get (BitVec.ofNat 2 ((0xFFFF : Addr).toNat / 16384))).toNat < 128 ∧
    (State.reset.bank.get (BitVec.ofNat 2 ((0x4000 : Addr).toNat / 16384))).toNat < 128 := by decide
theorem witness_OtherWindowsDoNotDecideAWrite :
    ∃ (t : State) (b : Banks), b ≠ State.reset.bank ∧
      b.get (window 0x4000) = State.reset.bank.get (window 0x4000) ∧
      exec (.memwr 0x4000 0x12) State.reset = .next t :=
  ⟨_, State.reset.bank.set 0 0x00, by decide, by decide, rfl⟩
theorem witness_ReadBaseIgnoresTheProtectBit :
    State.reset.bank.get 1 &&& 0x80 = 0 ∧ State.reset.bank.get 0 &&& 0x80 ≠ 0 ∧
    ∃ t u : State, exec (.memrd 0x0000) State.reset = .next t ∧
      exec (.memrd 0x0000)
        { State.reset with
          bank := State.reset.bank.set (window 0x0000) (State.reset.bank.get (window 0x0000) ^^^ 0x80) } =
        .next u :=
  ⟨by decide, by decide, _, _, rfl, rfl⟩
theorem witness_WindowsOnOnePageShareItsBytes :
    State.reset.img.wf = true ∧
    (State.reset.bank.get (window 0x7FFF)).toNat % 128 = (State.reset.bank.get (window 0x3FFF)).toNat % 128 ∧
    (0x7FFF : Addr).toNat % 16384 = (0x3FFF : Addr).toNat % 16384 ∧
    (State.reset.bank.get (window 0x7FFF)).toNat < 128 := by decide
theorem witness_TranslationLaws :
    window 0x7FFF = window 0x7FFF ∧ State.reset.bank.translate 0x7FFF = State.reset.bank.translate 0x3FFF ∧
    window 0x7FFF ≠ window 0x3FFF := by decide
theorem witness_TheLastLandedWriteIsWhatIsRead :
    ∃ t : State, State.reset.img.wf = true ∧
      execAll [.memwr 0x0000 0x99, .iowrBank 0 0 0x00, .memwr 0x0000 0x42] State.reset = .next t ∧
      t.img.read 0 = 0x42 :=
  ⟨_, rfl, rfl, by decide⟩
theorem witness_ARepeatedReadAnswersTheSame :
    ∃ t u v : State, (∀ i ∈ [Instr.iordUart 0 0, .signalUart true],
        Instr.isMemwr i = false ∧ Instr.writesBank i = false) ∧
      exec (.memrd 0x4000) State.reset = .next t ∧
      execAll [Instr.iordUart 0 0, .signalUart true] t = .next u ∧ exec (.memrd 0x4000) u = .next v :=
  ⟨_, _, _, by decide, rfl, rfl, rfl⟩
theorem witness_ProtectedWindowsShieldTheImage :
    ∃ s t : State, (∀ w, 128 ≤ (s.bank.get w).toNat) ∧
      (∀ i ∈ [Instr.memwr 0x8000 0x77], Instr.writesBank i = false) ∧
      execAll [.memwr 0x8000 0x77] s = .next t :=
  ⟨{ State.reset with bank := ⟨0x80, 0x81, 0x82, 0xFF⟩ }, _, by decide, by decide, rfl⟩
theorem witness_ARepeatedWriteLeavesTheSameState :
    ∃ t : State, State.reset.img.wf = true ∧ exec (.memwr 0x8000 0x34) State.reset = .next t ∧ t ≠ State.reset :=
  ⟨_, rfl, rfl, by decide⟩
theorem witness_EqualContentsAreEqualImages :
    Memory.wf [(0, 1), (7, 2)] = true ∧
    ∀ o, Memory.read [(0, 1), (7, 2)] o = Memory.read [(0, 1), (7, 2)] o := ⟨by decide, fun _ => rfl⟩
theorem witness_ARemapIsVisibleToTheNextTransaction :
    ∃ s t u : State, s.cfg.wf ∧ s.pending = encode (.iowrBank 0 2 0x05) :: encode (.memrd 0x8123) :: [] ∧
      step s = .next t ∧ step t = .next u ∧ u.response = some 0x5A :=
  ⟨{ waiting [encode (.iowrBank 0 2 0x05), encode (.memrd 0x8123)] with img := [(0x14123, 0x5A)] }, _, _,
    by decide, rfl, rfl, rfl, by decide⟩
theorem witness_AStraddlingAccessUsesTwoBankRegisters :
    ∃ s t u : State, s.cfg.wf ∧ (0x3FFF : Addr).toNat % 16384 = 16383 ∧
      s.pending = encode (.memrd 0x3FFF) :: encode (.memrd (0x3FFF + 1)) :: [] ∧
      step s = .next t ∧ step t = .next u :=
  ⟨waiting [encode (.memrd 0x3FFF), encode (.memrd (0x3FFF + 1))], _, _, by decide, by decide, rfl, rfl, rfl⟩
/-- Every I/O address meets the hypotheses of the read dispatch; the ports where its ranges meet are in
`test_decode_boundary_ports`. -/
theorem witness_IoReadDispatch (a : Addr) :
    (waiting [BitVec.ofNat 32 (0x2000000 + a.toNat * 256)]).cfg.wf ∧
    (waiting [BitVec.ofNat 32 (0x2000000 + a.toNat * 256)]).pending =
      BitVec.ofNat 32 (0x2000000 + a.toNat * 256) :: [] := ⟨show State.reset.cfg.wf by decide, rfl⟩
theorem witness_IoReadDispatch_bank_port :
    (after (step (waiting [BitVec.ofNat 32 (0x2000000 + (0x00FC : Addr).toNat * 256)]))).map (·.response) =
      some (some 0xFF) := by decide
/-- Every I/O address and byte meets the hypotheses of the write dispatch. -/
theorem witness_IoWriteDispatch (a : Addr) (d : Byte) :
    (waiting [BitVec.ofNat 32 (0x3000000 + a.toNat * 256 + d.toNat)]).cfg.wf ∧
    (waiting [BitVec.ofNat 32 (0x3000000 + a.toNat * 256 + d.toNat)]).pending =
      BitVec.ofNat 32 (0x3000000 + a.toNat * 256 + d.toNat) :: [] := ⟨show State.reset.cfg.wf by decide, rfl⟩
theorem witness_IoWriteDispatch_first_bank_port :
    (after (step (waiting [BitVec.ofNat 32 (0x3000000 + (0x00FC : Addr).toNat * 256 + 0x55)]))).map (·.bank.bank0) =
      some 0x55 := by decide
/-- The first and last port of each block of unmapped ports. -/
theorem witness_UnmappedPortsReadIdleAndIgnoreWrites :
    ∀ p ∈ [(0x00 : Byte), 0x07, 0x12, 0x17, 0x24, 0x97, 0x9C, 0xFB],
      (p.toNat ≤ 0x07 ∨ (0x12 ≤ p.toNat ∧ p.toNat ≤ 0x17) ∨ (0x24 ≤ p.toNat ∧ p.toNat ≤ 0x97) ∨
        (0x9C ≤ p.toNat ∧ p.toNat ≤ 0xFB)) := by decide
theorem witness_DefaultRoutingAndPolarity : (waiting []).cfg.invert = State.reset.cfg.invert := rfl
theorem witness_ARepeatedSignalDrivesAgain :
    (after (execAll [.signalVideo true, .signalVideo true] State.reset)).map (·.events) =
      some [.drive .trg0 false, .drive .trg0 false] ∧
    (after (execAll [.signalTimer true, .signalTimer true] State.reset)).map (·.events) =
      some [.drive .intreq true, .drive .intreq true] := by decide

/-- A run that drives two sinks, and a history that holds a drive of channel 2 to begin with. -/
theorem witness_ChannelTwoIsNeverDriven :
    ∃ s t : State, execAll [.signalVideo true, .signalUart true] s = .next t ∧
      Event.drive .trg2 true ∈ t.events :=
  ⟨{ State.reset with events := [.drive .trg2 true] }, _, rfl, by decide⟩

end Sys2Proof.Tests
end

section
/-! The statements of 00_scope.md: a step with no call waiting, and what each caller's transactions leave alone. -/

namespace Sys2Proof.Machine

/-- Fetching finds nothing when no call waits (log 1). -/
theorem fetch_of_pending_nil {s : State} (hp : s.pending = []) : fetch s = none := by
  simp only [fetch, hp]

/-- Settles O7: with nothing to fetch, a wired machine's step answers the state it began with. -/
theorem stepWithNoCallIsIdle : Obligations.StepWithNoCallIsIdle := by
  intro s hwf hp
  rw [step, if_pos hwf, fetch_of_pending_nil hp]

/-- What a completed transaction did, by who issued it (R4, R61): the CPU's kept every line and drove no sink,
a peripheral's was one signal change, and the host's was the reset of the banks. -/
theorem Completes.by_caller {i : Instr} {s t : State} (h : Completes i s t) :
    (Board.caller i = some .cpu ∧ t.line = s.line ∧
      ∀ k b, Event.drive k b ∈ t.events → Event.drive k b ∈ s.events) ∨
    (Board.caller i = some .peripheral ∧ ∃ src raw, t = s.signal src raw) ∨
    (Board.caller i = some .host ∧ t = s.resetBanks) := by
  cases h with
  | read a => exact .inl ⟨rfl, rfl, by simp⟩
  | discard a d hp => exact .inl ⟨rfl, rfl, by simp⟩
  | store a d hp => exact .inl ⟨rfl, rfl, by simp⟩
  | extRead _ _ dev off hio => exact .inl ⟨hio.1, rfl, by simp⟩
  | extWrite _ _ dev off v hio => exact .inl ⟨hio.1, rfl, by simp⟩
  | ataRead _ _ off hio => exact .inl ⟨hio.1, rfl, by simp⟩
  | ataWrite _ _ off v hio => exact .inl ⟨hio.1, rfl, by simp⟩
  | idle _ _ v hio => exact .inl ⟨hio.1, rfl, by simp⟩
  | ignore _ _ hio => exact .inl ⟨hio.1, rfl, by simp⟩
  | writeBank hi k d => exact .inl ⟨rfl, rfl, by simp⟩
  | signal _ _ src raw hc => exact .inr (.inl ⟨hc, src, raw, rfl⟩)
  | reset => exact .inr (.inr ⟨rfl, rfl⟩)

/-- A signal change changes one line at most and drives its source's sink once; the banks and the image stay
(R142 to R146, R152). -/
theorem State.signal_changes_one_line (s : State) (src : Source) (raw : Bool) :
    (s.signal src raw).bank = s.bank ∧ (s.signal src raw).img = s.img ∧
    ∃ src₀, (∀ src', src' ≠ src₀ → (s.signal src raw).line.get src' = s.line.get src') ∧
      ∃ b, (s.signal src raw).events = s.events ++ [.drive (Board.sinkOf src₀) b] :=
  ⟨rfl, rfl, src, fun _ hne => Lines.get_set_ne s.line (some raw) hne, sinkValue s.cfg.invert src raw, rfl⟩

/-- Settles O22, by who issued the transaction: each agent has one of the three parts, and the other two ask for
another agent. -/
theorem eachCallerChangesItsOwnPartOnly : Obligations.EachCallerChangesItsOwnPartOnly := by
  intro i s t h
  obtain ⟨hc, hcpu⟩ | ⟨hc, src, raw, rfl⟩ | ⟨hc, rfl⟩ := (exec_completes h).by_caller
  · exact ⟨fun _ => hcpu, by simp [hc], by simp [hc]⟩
  · exact ⟨by simp [hc], fun _ => s.signal_changes_one_line src raw, by simp [hc]⟩
  · exact ⟨by simp [hc], by simp [hc], fun _ => ⟨rfl, rfl, rfl⟩⟩

end Sys2Proof.Machine
end

section
/-! The statements of 10_state.md: the wiring parameters and the image's canonical form along a step, the power-on
bank values, what changes a bank register or an image byte, and the read base of a window. -/

namespace Sys2Proof.Machine

/-! ## What a completed transaction keeps -/

/-- Every way to complete keeps the wiring-time parameters (R32). -/
theorem Completes.cfg_eq {i : Instr} {s t : State} (h : Completes i s t) : t.cfg = s.cfg := by
  cases h <;> rfl

/-- The image is kept, or the transaction is a memory write that landed through a writable window (R44, R51). -/
theorem Completes.img_cases {i : Instr} {s t : State} (h : Completes i s t) :
    t.img = s.img ∨ ∃ a d, i = .memwr a d ∧ protect (s.bank.get (window a)) = false ∧
      t.img = s.img.write (s.phys a) d := by
  cases h with
  | store a d _ hp => exact .inr ⟨a, d, rfl, hp, rfl⟩
  | _ => exact .inl rfl

/-- The bank registers are kept, or the transaction is a bank-port write or a reset (R26). -/
theorem Completes.bank_cases {i : Instr} {s t : State} (h : Completes i s t) :
    t.bank = s.bank ∨ (∃ hi k d, i = .iowrBank hi k d) ∨ i = .reset := by
  cases h with
  | writeBank hi k d => exact .inr (.inl ⟨hi, k, d, rfl⟩)
  | reset => exact .inr (.inr rfl)
  | _ => exact .inl rfl

/-- A completed transaction keeps the invariant: a write lands inside the image, and in canonical form (R43). -/
theorem Completes.keeps_inv {i : Instr} {s t : State} (h : Completes i s t) (hs : s.inv) : t.inv := by
  obtain ⟨hcfg, hwf, hin⟩ := hs
  rw [State.inv, h.cfg_eq]
  obtain himg | ⟨a, d, -, -, himg⟩ := h.img_cases <;> rw [himg]
  · exact ⟨hcfg, hwf, hin⟩
  · exact ⟨hcfg, Memory.wf_write _ d hwf, Memory.within_write d hin (s.phys_lt a hcfg)⟩

/-! ## Steps -/

/-- Settles O11: a step is idle, or completes a transaction from the fetched state, whose parameters and image are
those of the state before. -/
theorem stepKeepsTheImageWellFormed : Obligations.StepKeepsTheImageWellFormed := by
  intro s t hs h
  obtain ⟨-, ⟨-, rfl⟩ | ⟨w, ws, i, -, -, hexec⟩⟩ := step_next_cases h
  · exact hs
  · exact (exec_completes hexec).keeps_inv hs

/-- Settles O10: neither an idle step nor a completed transaction touches the parameters. -/
theorem stepKeepsTheWiringParameters : Obligations.StepKeepsTheWiringParameters := by
  intro s t h
  obtain ⟨-, ⟨-, rfl⟩ | ⟨w, ws, i, -, -, hexec⟩⟩ := step_next_cases h
  · rfl
  · exact (exec_completes hexec).cfg_eq

/-! ## Bank registers -/

/-- Settles O14: each of the three register files is the power-on one, whose fields and bindings evaluate. -/
theorem powerOnAndResetBankValues : Obligations.PowerOnAndResetBankValues := by
  intro s cfg img
  refine ⟨s.resetBanks, rfl, fun b hb => ?_⟩
  have hb : b = Banks.powerOn := by simpa [State.reset] using hb
  subst hb
  decide

/-- Settles O19: the other ways to complete keep the registers. -/
theorem bankRegistersChangeOnlyByBankPortOrReset : Obligations.BankRegistersChangeOnlyByBankPortOrReset := by
  intro i s t h hne
  exact (exec_completes h).bank_cases.resolve_left hne

/-- The page of a register is its low seven bits (R21). -/
theorem page_toNat_eq_and (reg : Byte) : (page reg).toNat = (reg &&& 0x7F).toNat := by
  rw [page_toNat, BitVec.toNat_and]
  exact (Nat.and_two_pow_sub_one_eq_mod reg.toNat 7).symm

/-- Toggling the protect bit leaves the page (R25). -/
theorem page_xor_protect (reg : Byte) : page (reg ^^^ 0x80) = page reg := by
  revert reg
  decide

/-- A register's protect bit is bit 7 (R21). -/
theorem protect_eq_false_iff (reg : Byte) : protect reg = false ↔ reg &&& 0x80 = 0 := by
  revert reg
  decide

/-- The write binding of a window whose protect bit is clear is its read binding (R24). -/
theorem Banks.writeBind_of_writable {b : Banks} {w : Window} (h : protect (b.get w) = false) :
    b.writeBind w = some (b.readBind w) := by
  simp [Banks.writeBind, Banks.readBind, h]

/-- A window has a write binding exactly when its protect bit is clear (R24, R25). -/
theorem Banks.writeBind_isSome (b : Banks) (w : Window) :
    (b.writeBind w).isSome ↔ protect (b.get w) = false := by
  cases h : protect (b.get w) <;> simp [Banks.writeBind, h]

/-- A register whose protect bit is toggled gives its window the page it gave before (R25). -/
theorem Banks.page_get_toggle (b : Banks) (w : Window) :
    page ((b.set w (b.get w ^^^ 0x80)).get w) = page (b.get w) := by
  rw [Banks.get_set_self, page_xor_protect]

/-- Two register files that give the window of an address one page translate it alike (R42). -/
theorem Banks.translate_congr {b b' : Banks} {a : Addr}
    (h : page (b.get (window a)) = page (b'.get (window a))) : b.translate a = b'.translate a := by
  rw [Banks.translate, Banks.translate, h]

/-- Settles O27: the read base is a function of the page, which the protect bit is no part of, and a read goes
where its page does. -/
theorem readBaseIgnoresTheProtectBit : Obligations.ReadBaseIgnoresTheProtectBit := by
  refine ⟨fun b w => ⟨?_, ?_, ?_, fun h => ?_⟩, fun a s t u ht hu => ?_⟩
  · rw [Banks.readBind, Banks.base, page_toNat_eq_and]
  · rw [Banks.readBind, Banks.readBind, Banks.base, Banks.base, Banks.page_get_toggle]
  · rw [Banks.writeBind_isSome, protect_eq_false_iff]
  · exact Banks.writeBind_of_writable ((protect_eq_false_iff _).mpr h)
  · cases ht
    cases hu
    simp only [State.respond_response, State.phys]
    rw [Banks.translate_congr (s.bank.page_get_toggle (window a))]

/-! ## The image -/

/-- Settles O21: of the ways to complete only a landed write changes the image, and it changes its own offset. -/
theorem anImageByteChangesOnlyByALandedWrite : Obligations.AnImageByteChangesOnlyByALandedWrite := by
  intro i s t o hwf h hne
  obtain himg | ⟨a, d, hi, hp, himg⟩ := (exec_completes h).img_cases
  · exact absurd (by rw [himg]) hne
  · rw [himg] at hne ⊢
    have ho : o = s.phys a := by
      by_contra hother
      exact hne (Memory.read_write_ne s.img d hother)
    subst ho
    rw [protect_eq, decide_eq_false_iff_not, Nat.not_le] at hp
    exact ⟨a, d, hi, hp, s.phys_eq a, Memory.read_write_self _ d hwf⟩

/-- The canonical form of a non-empty image. -/
theorem Memory.wfFrom_cons {lo a : Nat} {v : Byte} {m : Memory} :
    Memory.wfFrom lo ((a, v) :: m) = true ↔
      lo ≤ a ∧ v ≠ Memory.unlisted ∧ Memory.wfFrom (a + 1) m = true := by
  simp [Memory.wfFrom, and_assoc]

@[simp] theorem Memory.read_head (a : Nat) (v : Byte) (m : Memory) : Memory.read ((a, v) :: m) a = v := by
  rw [Memory.read_cons, if_pos rfl]

/-- An offset that a canonical image from `lo` on lists is not below `lo`. -/
theorem Memory.le_of_read_ne {m : Memory} {lo off : Nat} (h : Memory.wfFrom lo m = true)
    (hne : m.read off ≠ Memory.unlisted) : lo ≤ off :=
  Nat.le_of_not_lt fun hlt => hne (Memory.read_below h hlt)

/-- A canonical image that reads as unlisted everywhere lists nothing. -/
theorem Memory.eq_nil_of_read {m : Memory} {lo : Nat} (h : Memory.wfFrom lo m = true)
    (hread : ∀ o, m.read o = Memory.unlisted) : m = [] := by
  cases m with
  | nil => rfl
  | cons c m =>
    obtain ⟨a, v⟩ := c
    obtain ⟨-, hv, -⟩ := Memory.wfFrom_cons.mp h
    exact absurd (by simpa using hread a) hv

/-- Extensionality of the canonical form. The first offset listed is the least that does not read as unlisted, so
equal contents give equal heads; below its own start a tail reads as unlisted, so they give equal tails. -/
theorem Memory.ext_of_wfFrom {m m' : Memory} {lo lo' : Nat} (h : Memory.wfFrom lo m = true)
    (h' : Memory.wfFrom lo' m' = true) (hread : ∀ o, m.read o = m'.read o) : m = m' := by
  induction m generalizing lo lo' m' with
  | nil => exact (Memory.eq_nil_of_read h' fun o => (hread o).symm).symm
  | cons c m ih =>
    cases m' with
    | nil => exact Memory.eq_nil_of_read h hread
    | cons c' m' =>
      obtain ⟨a, v⟩ := c
      obtain ⟨a', v'⟩ := c'
      obtain ⟨-, hv, hm⟩ := Memory.wfFrom_cons.mp h
      obtain ⟨-, hv', hm'⟩ := Memory.wfFrom_cons.mp h'
      have hle : a ≤ a' :=
        Memory.le_of_read_ne (Memory.wfFrom_cons.mpr ⟨le_rfl, hv, hm⟩) (by simpa [hread a'])
      have hge : a' ≤ a :=
        Memory.le_of_read_ne (Memory.wfFrom_cons.mpr ⟨le_rfl, hv', hm'⟩) (by simpa [← hread a])
      obtain rfl : a = a' := Nat.le_antisymm hle hge
      obtain rfl : v = v' := by simpa using hread a
      have htail : ∀ o, Memory.read m o = Memory.read m' o := by
        intro o
        by_cases ho : o = a
        · rw [Memory.read_below hm (by omega), Memory.read_below hm' (by omega)]
        · simpa [Memory.read_cons, ho] using hread o
      rw [ih hm hm' htail]

/-- Settles O34, by the extensionality of the canonical form from offset 0 on. -/
theorem equalContentsAreEqualImages : Obligations.EqualContentsAreEqualImages := by
  intro m m' h h' hread
  exact Memory.ext_of_wfFrom h h' hread

end Sys2Proof.Machine
end

section
/-! The statements of 20_memory.md: what one memory cycle does, the arithmetic of the translation, runs of
transactions against the reference machine that keeps the bank registers alone, and steps on a queue of calls. -/

namespace Sys2Proof.Machine

/-! ## Memory cycles -/

/-- What a memory read returns (R80). -/
theorem response_of_memrd {a : Addr} {s t : State} (h : exec (.memrd a) s = .next t) :
    t.response = some (s.img.read (s.phys a)) := by
  cases h
  rfl

/-- A memory write through a protected window is discarded (R44, R82). -/
theorem exec_memwr_of_protected {a : Addr} {s : State} (d : Byte)
    (h : protect (s.bank.get (window a)) = true) : exec (.memwr a d) s = .next s.done :=
  if_pos h

/-- A memory write through a writable window lands at the translated offset (R44, R82). -/
theorem exec_memwr_of_writable {a : Addr} {s : State} (d : Byte)
    (h : protect (s.bank.get (window a)) = false) :
    exec (.memwr a d) s = .next { s with img := s.img.write (s.phys a) d }.done :=
  if_neg (by simp [h])

/-- A register below 128 has its protect bit clear (R21). -/
theorem protect_of_lt {reg : Byte} (h : reg.toNat < 128) : protect reg = false := by
  rw [protect_eq, decide_eq_false_iff_not, Nat.not_le]
  exact h

/-- Settles O25, by the window's protect bit. -/
theorem writesAreGuardedByTheirWindowsProtectBit : Obligations.WritesAreGuardedByTheirWindowsProtectBit := by
  intro a d s
  refine ⟨⟨_, rfl, rfl⟩, ?_⟩
  split
  · next hclear => exact exec_memwr_of_writable d ((protect_eq_false_iff _).mpr hclear)
  · next hset =>
    rw [← protect_eq_false_iff, Bool.not_eq_false] at hset
    exact exec_memwr_of_protected d hset

/-- Two addresses whose windows hold one page, at one offset in it, reach one image offset (R42, R43). -/
theorem State.phys_congr {s : State} {a a' : Addr}
    (hpage : (s.bank.get (window a)).toNat % 128 = (s.bank.get (window a')).toNat % 128)
    (hoff : a.toNat % 16384 = a'.toNat % 16384) : s.phys a = s.phys a' := by
  rw [State.phys_eq, State.phys_eq, hpage, hoff]

/-- Settles O28: the read goes to the offset that the write has just replaced. -/
theorem windowsOnOnePageShareItsBytes : Obligations.WindowsOnOnePageShareItsBytes := by
  intro a a' d s hwf hpage hoff hlt
  refine ⟨_, _, exec_memwr_of_writable d (protect_of_lt hlt), rfl, ?_⟩
  have hread : (s.img.write (s.phys a) d).read (s.phys a') = d := by
    rw [State.phys_congr hpage hoff, Memory.read_write_self _ d hwf]
  exact congrArg some hread

/-- Writing the byte that an offset already holds changes nothing. -/
theorem Memory.write_eq_self {m : Memory} {off : Nat} {v : Byte} (hwf : m.wf = true) (h : m.read off = v) :
    m.write off v = m := by
  refine Memory.ext_of_wfFrom (Memory.wf_write off v hwf) hwf fun o => ?_
  by_cases ho : o = off
  · rw [ho, Memory.read_write_self off v hwf, h]
  · rw [Memory.read_write_ne m v ho]

/-- A memory write of the byte that stands at its offset ends with no other change, landed or not (R52). -/
theorem exec_memwr_of_in_place {a : Addr} {d : Byte} {s : State} (hwf : s.img.wf = true)
    (h : s.img.read (s.phys a) = d) : exec (.memwr a d) s = .next s.done := by
  cases hp : protect (s.bank.get (window a)) with
  | true => exact exec_memwr_of_protected d hp
  | false => rw [exec_memwr_of_writable d hp, Memory.write_eq_self hwf h]

/-- Settles O33: a discarded write is discarded again, and a landed one finds its byte in place. -/
theorem aRepeatedWriteLeavesTheSameState : Obligations.ARepeatedWriteLeavesTheSameState := by
  intro a d s t hwf h
  cases hp : protect (s.bank.get (window a)) with
  | true =>
    rw [exec_memwr_of_protected d hp] at h
    cases h
    exact exec_memwr_of_protected d hp
  | false =>
    rw [exec_memwr_of_writable d hp] at h
    cases h
    exact exec_memwr_of_in_place (Memory.wf_write _ d hwf) (Memory.read_write_self _ d hwf)

/-! ## The translation -/

/-- The translation in terms of the page: a page is below 128 and an offset below 16384, so nothing carries out
of 21 bits (R46). -/
theorem Banks.translate_toNat_page (b : Banks) (a : Addr) :
    (b.translate a).toNat = (page (b.get (window a))).toNat * 16384 + a.toNat % 16384 := by
  rw [Banks.translate_toNat, page_toNat]

/-- Two addresses meet exactly when their pages and their offsets do (R46). -/
theorem Banks.translate_inj (b : Banks) (a a' : Addr) :
    b.translate a = b.translate a' ↔
      page (b.get (window a)) = page (b.get (window a')) ∧ a.toNat % 16384 = a'.toNat % 16384 := by
  rw [← BitVec.toNat_inj, ← BitVec.toNat_inj, Banks.translate_toNat_page, Banks.translate_toNat_page]
  omega

/-- An address is its window and its offset in it (R42). -/
theorem eq_of_window_eq {a a' : Addr} (hw : window a = window a') (hoff : a.toNat % 16384 = a'.toNat % 16384) :
    a = a' := by
  have hdiv : a.toNat / 16384 = a'.toNat / 16384 := by rw [← window_toNat, ← window_toNat, hw]
  exact BitVec.eq_of_toNat_eq (by omega)

/-- Settles O29, by the translation's value and its injectivity on pages and offsets. -/
theorem translationLaws : Obligations.TranslationLaws := by
  intro b a a'
  refine ⟨b.translate_toNat_page a, ?_, fun hw h => ?_, b.translate_inj a a'⟩
  · rw [← b.translate_toNat_page a]
    exact (b.translate a).isLt
  · exact eq_of_window_eq hw ((b.translate_inj a a').mp h).2

/-! ## What a transaction keeps -/

/-- A transaction that is no memory write keeps the image (R31). -/
theorem Completes.img_eq {i : Instr} {s t : State} (h : Completes i s t) (hi : Instr.isMemwr i = false) :
    t.img = s.img := by
  obtain himg | ⟨a, d, rfl, -, -⟩ := h.img_cases
  · exact himg
  · cases hi

/-- A transaction that is neither a bank-port write nor a reset keeps the bank registers (R26). -/
theorem Completes.bank_eq {i : Instr} {s t : State} (h : Completes i s t) (hi : Instr.writesBank i = false) :
    t.bank = s.bank := by
  obtain hbank | ⟨hi', k, d, rfl⟩ | rfl := h.bank_cases
  · exact hbank
  · cases hi
  · cases hi

/-- A memory write is a memory cycle. -/
theorem Instr.isMemwr_eq_false {i : Instr} (h : Instr.isMemory i = false) : Instr.isMemwr i = false := by
  cases i with
  | memwr a d => cases h
  | _ => rfl

/-- Settles O20: outside the memory cycles no meaning names the image. -/
theorem onlyTheMapperReachesTheImage : Obligations.OnlyTheMapperReachesTheImage := by
  intro i s img hi
  refine ⟨?_, fun t h => (exec_completes h).img_eq (Instr.isMemwr_eq_false hi)⟩
  cases i with
  | memrd a => cases hi
  | memwr a d => cases hi
  | _ => rfl

/-! ## Runs -/

/-- A run completes when its first transaction does and the rest of the run completes from there (R53). -/
theorem execAll_cons_eq_next {i : Instr} {is : List Instr} {s u : State} :
    execAll (i :: is) s = .next u ↔ ∃ t, exec i s = .next t ∧ execAll is t = .next u := by
  cases h : exec i s <;> simp [execAll, h]

/-- What every transaction of a run keeps, the run keeps. -/
theorem execAll_keeps {P : State → Prop} {is : List Instr} {s t : State}
    (hstep : ∀ i ∈ is, ∀ s t, Completes i s t → P s → P t) (h : execAll is s = .next t) (hs : P s) : P t := by
  induction is generalizing s with
  | nil =>
    cases h
    exact hs
  | cons i is ih =>
    obtain ⟨r, hi, his⟩ := execAll_cons_eq_next.mp h
    exact ih (fun j hj => hstep j (List.mem_cons_of_mem i hj)) his
      (hstep i List.mem_cons_self s r (exec_completes hi) hs)

/-- Everything that a memory read answers from is the same in the two states (R80). -/
def State.sameMemory (s t : State) : Prop := t.img = s.img ∧ t.bank = s.bank ∧ t.cfg = s.cfg

/-- A memory read answers from the image, the bank registers and the parameters alone (R80). -/
theorem State.sameMemory.read_phys {s t : State} (h : s.sameMemory t) (a : Addr) :
    t.img.read (t.phys a) = s.img.read (s.phys a) := by
  obtain ⟨himg, hbank, hcfg⟩ := h
  rw [State.phys, State.phys, himg, hbank, hcfg]

/-- Of what a read answers from, a transaction that writes no register can change the image only. -/
theorem State.sameMemory.extend {s t u : State} {i : Instr} (h : s.sameMemory t) (htu : Completes i t u)
    (hi : Instr.writesBank i = false) (himg : u.img = t.img) : s.sameMemory u := by
  obtain ⟨himg', hbank, hcfg⟩ := h
  exact ⟨himg.trans himg', (htu.bank_eq hi).trans hbank, htu.cfg_eq.trans hcfg⟩

/-- Settles O31: no transaction of the run changes what a read answers from. -/
theorem aRepeatedReadAnswersTheSame : Obligations.ARepeatedReadAnswersTheSame := by
  intro a is s t u v his ht hu hv
  have hst : s.sameMemory t := by
    cases ht
    exact ⟨rfl, rfl, rfl⟩
  have hsu : s.sameMemory u := by
    refine execAll_keeps (fun i hi x y hxy hx => ?_) hu hst
    obtain ⟨hmemwr, hbank⟩ := his i hi
    exact hx.extend hxy hbank (hxy.img_eq hmemwr)
  rw [response_of_memrd hv, response_of_memrd ht, hsu.read_phys a]

/-- A transaction with every window protected keeps the image (R44). -/
theorem Completes.img_eq_of_protected {i : Instr} {s t : State} (h : Completes i s t)
    (hprot : ∀ w, 128 ≤ (s.bank.get w).toNat) : t.img = s.img := by
  obtain himg | ⟨a, d, -, hp, -⟩ := h.img_cases
  · exact himg
  · rw [protect_eq, decide_eq_false_iff_not] at hp
    exact absurd (hprot (window a)) hp

/-- Settles O32: the registers stay as they are along the run, so that no write of it lands. -/
theorem protectedWindowsShieldTheImage : Obligations.ProtectedWindowsShieldTheImage := by
  intro is s t hprot his h
  have hst : s.sameMemory t := by
    refine execAll_keeps (fun i hi x y hxy hx => ?_) h ⟨rfl, rfl, rfl⟩
    have hbank : x.bank = s.bank := hx.2.1
    exact hx.extend hxy (his i hi) (hxy.img_eq_of_protected (hbank ▸ hprot))
  exact hst.1

/-! ## The reference machine -/

/-- The byte that a transaction leaves at an offset by landing on it, none if it does not. -/
def landedAt (imageSize off : Nat) (b : Banks) (i : Instr) : Option Byte :=
  (landing imageSize b i).bind fun c => if c.1 = off then some c.2 else none

/-- The last write of a run that landed on an offset is one of its tail if there is such a one, else its head. -/
theorem lastLanded_cons (imageSize off : Nat) (b : Banks) (i : Instr) (is : List Instr) :
    lastLanded imageSize off b (i :: is) =
      (lastLanded imageSize off (bankAfter b i) is).or (landedAt imageSize off b i) := by
  simp only [lastLanded, landedAt]
  cases lastLanded imageSize off (bankAfter b i) is with
  | some v => rfl
  | none => cases landing imageSize b i <;> rfl

/-- The reference machine's registers are kept by what cannot change one. -/
theorem bankAfter_of_writesBank_false {b : Banks} {i : Instr} (h : Instr.writesBank i = false) :
    bankAfter b i = b := by
  cases i with
  | iowrBank hi k d => cases h
  | reset => cases h
  | _ => rfl

/-- Only a memory write lands. -/
theorem landing_of_isMemwr_false {n : Nat} {b : Banks} {i : Instr} (h : Instr.isMemwr i = false) :
    landing n b i = none := by
  cases i with
  | memwr a d => cases h
  | _ => rfl

/-- A memory write lands at the machine's own offset if its window is writable, and nowhere otherwise (R44). -/
theorem landing_memwr (s : State) (a : Addr) (d : Byte) :
    landing s.cfg.imageSize s.bank (.memwr a d) =
      if protect (s.bank.get (window a)) then none else some (s.phys a, d) := by
  simp only [landing, protect_eq, offsetOf, State.phys_eq, decide_eq_true_eq, ← Nat.not_lt, ite_not]

/-- The reference machine follows the bank registers (R26, R27, R112). -/
theorem bank_eq_bankAfter {i : Instr} {s t : State} (h : exec i s = .next t) : t.bank = bankAfter s.bank i := by
  cases hi : Instr.writesBank i with
  | false => rw [(exec_completes h).bank_eq hi, bankAfter_of_writesBank_false hi]
  | true =>
    cases i with
    | iowrBank hi k d => cases h; rfl
    | reset => cases h; rfl
    | _ => cases hi

/-- After a transaction an image byte is what it left there, or else what it was before (R44, R51). -/
theorem read_eq_landedAt {i : Instr} {s t : State} (hwf : s.img.wf = true) (h : exec i s = .next t) (o : Nat) :
    t.img.read o = (landedAt s.cfg.imageSize o s.bank i).getD (s.img.read o) := by
  cases hi : Instr.isMemwr i with
  | false => simp [landedAt, landing_of_isMemwr_false hi, (exec_completes h).img_eq hi]
  | true =>
    cases i with
    | memwr a d =>
      rw [landedAt, landing_memwr]
      cases hp : protect (s.bank.get (window a)) with
      | true =>
        rw [exec_memwr_of_protected d hp] at h
        cases h
        rfl
      | false =>
        rw [exec_memwr_of_writable d hp] at h
        cases h
        by_cases ho : s.phys a = o
        · subst ho
          simp [Memory.read_write_self _ d hwf]
        · simp [ho, Memory.read_write_ne s.img d (Ne.symm ho)]
    | _ => cases hi

/-- A transaction keeps the image's canonical form, whatever the parameters (log 4). -/
theorem Completes.img_wf {i : Instr} {s t : State} (h : Completes i s t) (hwf : s.img.wf = true) :
    t.img.wf = true := by
  obtain himg | ⟨a, d, -, -, himg⟩ := h.img_cases <;> rw [himg]
  · exact hwf
  · exact Memory.wf_write _ d hwf

/-- Settles O30, by induction on the run, from any state: the reference machine meets the tail of the run with the
registers that the head leaves, and a byte on which nothing of the tail lands is as the head left it. -/
theorem theLastLandedWriteIsWhatIsRead : Obligations.TheLastLandedWriteIsWhatIsRead := by
  intro is
  induction is with
  | nil =>
    intro s t _ h o
    cases h
    rfl
  | cons i is ih =>
    intro s t hwf h o
    obtain ⟨r, hi, his⟩ := execAll_cons_eq_next.mp h
    have hr := exec_completes hi
    calc t.img.read o
        = (lastLanded r.cfg.imageSize o r.bank is).getD (r.img.read o) := ih r t (hr.img_wf hwf) his o
      _ = (lastLanded s.cfg.imageSize o (bankAfter s.bank i) is).getD
            ((landedAt s.cfg.imageSize o s.bank i).getD (s.img.read o)) := by
          rw [hr.cfg_eq, bank_eq_bankAfter hi, read_eq_landedAt hwf hi]
      _ = (lastLanded s.cfg.imageSize o s.bank (i :: is)).getD (s.img.read o) := by
          rw [lastLanded_cons, Option.getD_or]

/-! ## Steps -/

/-- Fetching takes the first call that waits, and counts it (R53; logs 1 and 12). -/
theorem fetch_of_pending_cons {s : State} {w : Container} {ws : List Container} (hp : s.pending = w :: ws) :
    fetch s = some (w, { s with pending := ws, taken := s.taken + 1 }) := by
  simp only [fetch, hp]

/-- Settles O6: a wired machine fetches the call and runs what it decodes to. -/
theorem stepRunsTheDecodedTransaction : Obligations.StepRunsTheDecodedTransaction := by
  intro s w ws i hwf hp hd
  rw [step, if_pos hwf, fetch_of_pending_cons hp]
  simp only [hd]

/-- The word of a memory read is read back (R62). -/
theorem decode_encode_memrd (a : Addr) : decode (encode (.memrd a)) = .ok (.memrd a) := by
  simp [decode, encode]

/-- The bank ports are 0xFC to 0xFF, and a port's register is its distance from the first (R64). -/
theorem decodeIowr_bank (hi : Byte) (k : Window) (d : Byte) :
    decodeIowr (ioAddr hi (0xFC + k.setWidth 8)) d = .iowrBank hi k d := by
  have hport : Board.handlerOf (0xFC + k.setWidth 8) = some ⟨0xFC, 0xFF, .bank⟩ ∧
      (0xFC + k.setWidth 8 - 0xFC : Byte).setWidth 2 = k := by
    revert k
    decide
  obtain ⟨hhandler, hindex⟩ := hport
  rw [decodeIowr, ioPort_ioAddr, ioHigh_ioAddr, hhandler]
  exact congrArg (Instr.iowrBank hi · d) hindex

/-- The word of a bank-port write is read back (R62). -/
theorem decode_encode_iowrBank (hi : Byte) (k : Window) (d : Byte) :
    decode (encode (.iowrBank hi k d)) = .ok (.iowrBank hi k d) := by
  have hword : decode (encode (.iowrBank hi k d)) = .ok (decodeIowr (ioAddr hi (0xFC + k.setWidth 8)) d) := by
    simp [decode, encode]
  rw [hword, decodeIowr_bank]

/-- A step that finds the word of a memory read answers from the image through the registers as they stand, and
takes the call (R50, R80). -/
theorem step_memrd {s t : State} {a : Addr} {ws : List Container} (h : step s = .next t)
    (hwf : s.cfg.wf) (hp : s.pending = encode (.memrd a) :: ws) :
    t = { s with pending := ws, taken := s.taken + 1, response := some (s.img.read (s.phys a)) } := by
  rw [stepRunsTheDecodedTransaction s _ ws _ hwf hp (decode_encode_memrd a)] at h
  cases h
  rfl

/-- A step that finds the word of a bank-port write stores the register, and takes the call (R50, R112). -/
theorem step_iowrBank {s t : State} {hi : Byte} {k : Window} {d : Byte} {ws : List Container}
    (h : step s = .next t) (hwf : s.cfg.wf) (hp : s.pending = encode (.iowrBank hi k d) :: ws) :
    t = { s with bank := s.bank.set k d, pending := ws, taken := s.taken + 1, response := none } := by
  rw [stepRunsTheDecodedTransaction s _ ws _ hwf hp (decode_encode_iowrBank hi k d)] at h
  cases h
  rfl

/-- Settles O35: the read's step finds the register stored by the step before. -/
theorem aRemapIsVisibleToTheNextTransaction : Obligations.ARemapIsVisibleToTheNextTransaction := by
  intro s t u hi k d a ws hwf hp ht hu
  obtain rfl := step_iowrBank ht hwf hp
  obtain rfl := step_memrd hu hwf rfl
  simp only [State.phys_eq, clamp]
  split
  · next hk => rw [hk, Banks.get_set_self]
  · next hk => rw [Banks.get_set_ne s.bank d hk]

/-- The address after the last one of a window is the first one of the next, window 0 coming after window 3 (R49). -/
theorem window_succ_of_last {a : Addr} (h : a.toNat % 16384 = 16383) :
    window (a + 1) = window a + 1 ∧ (a + 1).toNat % 16384 = 0 := by
  have hlt := a.isLt
  have hsucc : (a + 1).toNat = (a.toNat + 1) % 65536 := BitVec.toNat_add a 1
  refine ⟨BitVec.eq_of_toNat_eq ?_, by omega⟩
  have hwindow : (window a + 1).toNat = ((window a).toNat + 1) % 4 := BitVec.toNat_add (window a) 1
  rw [hwindow, window_toNat, window_toNat]
  omega

/-- Settles O36: the first read leaves the registers, and the second goes through those of the window after. -/
theorem aStraddlingAccessUsesTwoBankRegisters : Obligations.AStraddlingAccessUsesTwoBankRegisters := by
  intro s t u a ws hwf hlast hp ht hu
  obtain rfl := step_memrd ht hwf hp
  obtain rfl := step_memrd hu hwf rfl
  obtain ⟨hwindow, hfirst⟩ := window_succ_of_last hlast
  simp only [State.phys_eq, hlast, hwindow, hfirst, Nat.add_zero, and_self]

end Sys2Proof.Machine
end

section
/-! The statements of 30_encoding.md: the decoder and the encoder undo each other, the decoder reads the opcode
table, and a step is refused on the words that R70 lists and on no others. -/

namespace Sys2Proof.Machine

/-! ## The ports of the I/O table -/

/-- Each range of the I/O table is the ports that agree with its start on a mask (R64). -/
theorem handlerOf_eq (p : Byte) : Board.handlerOf p =
    if p &&& 0xF8 = 0x08 then some ⟨0x08, 0x0F, .disk⟩
    else if p &&& 0xFE = 0x10 then some ⟨0x10, 0x11, .sound⟩
    else if p &&& 0xF8 = 0x18 then some ⟨0x18, 0x1F, .uart⟩
    else if p &&& 0xFC = 0x20 then some ⟨0x20, 0x23, .timer⟩
    else if p &&& 0xFC = 0x98 then some ⟨0x98, 0x9B, .video⟩
    else if p &&& 0xFC = 0xFC then some ⟨0xFC, 0xFF, .bank⟩
    else none := by
  revert p
  decide

/-- The ports without a handler are the unmapped ports (R67). -/
theorem handlerOf_eq_none_iff (p : Byte) : Board.handlerOf p = none ↔ Board.unmapped p = true := by
  revert p
  decide

/-- A port of a range of at most `2 ^ k` ports is the range's start plus an offset of `k` bits (R64). -/
theorem exists_offset {k : Nat} {start stop p : Byte} (hk : stop.toNat - start.toNat < 2 ^ k)
    (hstart : start ≤ p) (hstop : p ≤ stop) : ∃ off : BitVec k, p = start + off.setWidth 8 := by
  have hoff : (p - start).toNat < 2 ^ k := by bv_omega
  refine ⟨(p - start).setWidth k, BitVec.eq_of_toNat_eq ?_⟩
  rw [BitVec.toNat_add, BitVec.toNat_setWidth, BitVec.toNat_setWidth, Nat.mod_eq_of_lt hoff]
  bv_omega

/-- The offset of a port is what is left of it above its range's start (R64). -/
theorem setWidth_start_add_sub {k : Nat} (hk : k ≤ 8) (start : Byte) (off : BitVec k) :
    (start + off.setWidth 8 - start).setWidth k = off := by
  rw [add_sub_cancel_left, BitVec.setWidth_setWidth_of_le _ hk, BitVec.setWidth_eq]

/-! The handler of a port that is given as its range's start plus an offset (R64). -/

theorem handlerOf_disk : ∀ off : BitVec 3, Board.handlerOf (0x08 + off.setWidth 8) = some ⟨0x08, 0x0F, .disk⟩ := by
  decide

theorem handlerOf_sound : ∀ off : BitVec 1, Board.handlerOf (0x10 + off.setWidth 8) = some ⟨0x10, 0x11, .sound⟩ := by
  decide

theorem handlerOf_uart : ∀ off : BitVec 3, Board.handlerOf (0x18 + off.setWidth 8) = some ⟨0x18, 0x1F, .uart⟩ := by
  decide

theorem handlerOf_timer : ∀ off : BitVec 2, Board.handlerOf (0x20 + off.setWidth 8) = some ⟨0x20, 0x23, .timer⟩ := by
  decide

theorem handlerOf_video : ∀ off : BitVec 2, Board.handlerOf (0x98 + off.setWidth 8) = some ⟨0x98, 0x9B, .video⟩ := by
  decide

theorem handlerOf_bank : ∀ off : BitVec 2, Board.handlerOf (0xFC + off.setWidth 8) = some ⟨0xFC, 0xFF, .bank⟩ := by
  decide

/-! ## The I/O addresses and the transactions they select -/

/-- The read and the write that an I/O address stands for: the address is a high byte and a port, and the port an
offset in a handler's range or an unmapped port (R62, R64, R67). -/
inductive IoForm : Addr → Instr → (Byte → Instr) → Prop
  | disk (hi : Byte) (off : BitVec 3) :
      IoForm (ioAddr hi (0x08 + off.setWidth 8)) (.iordDisk hi off) (.iowrDisk hi off)
  | sound (hi : Byte) (off : BitVec 1) :
      IoForm (ioAddr hi (0x10 + off.setWidth 8)) (.iordSound hi off) (.iowrSound hi off)
  | uart (hi : Byte) (off : BitVec 3) :
      IoForm (ioAddr hi (0x18 + off.setWidth 8)) (.iordUart hi off) (.iowrUart hi off)
  | timer (hi : Byte) (off : BitVec 2) :
      IoForm (ioAddr hi (0x20 + off.setWidth 8)) (.iordTimer hi off) (.iowrTimer hi off)
  | video (hi : Byte) (off : BitVec 2) :
      IoForm (ioAddr hi (0x98 + off.setWidth 8)) (.iordVideo hi off) (.iowrVideo hi off)
  | bank (hi : Byte) (index : Window) :
      IoForm (ioAddr hi (0xFC + index.setWidth 8)) (.iordBank hi index) (.iowrBank hi index)
  | unmapped (hi port : Byte) (h : Board.unmapped port = true) :
      IoForm (ioAddr hi port) (.iordUnmapped hi port) (.iowrUnmapped hi port)

/-- Every I/O address has a form, by the handler of its port. -/
theorem exists_ioForm (a : Addr) : ∃ r w, IoForm a r w := by
  rw [← ioAddr_fields a]
  generalize ioHigh a = hi, ioPort a = port
  cases hp : Board.handlerOf port with
  | none => exact ⟨_, _, .unmapped hi port ((handlerOf_eq_none_iff port).1 hp)⟩
  | some h =>
    have hclaims := List.find?_some hp
    have hmem := List.mem_of_find?_eq_some hp
    simp only [Board.claims, Bool.and_eq_true, decide_eq_true_eq] at hclaims
    obtain ⟨hstart, hstop⟩ := hclaims
    simp only [Board.handlers, List.mem_cons, List.not_mem_nil, or_false] at hmem
    obtain rfl | rfl | rfl | rfl | rfl | rfl := hmem
    · obtain ⟨off, rfl⟩ := exists_offset (k := 3) (by decide) hstart hstop
      exact ⟨_, _, .disk hi off⟩
    · obtain ⟨off, rfl⟩ := exists_offset (k := 1) (by decide) hstart hstop
      exact ⟨_, _, .sound hi off⟩
    · obtain ⟨off, rfl⟩ := exists_offset (k := 3) (by decide) hstart hstop
      exact ⟨_, _, .uart hi off⟩
    · obtain ⟨off, rfl⟩ := exists_offset (k := 2) (by decide) hstart hstop
      exact ⟨_, _, .timer hi off⟩
    · obtain ⟨off, rfl⟩ := exists_offset (k := 2) (by decide) hstart hstop
      exact ⟨_, _, .video hi off⟩
    · obtain ⟨off, rfl⟩ := exists_offset (k := 2) (by decide) hstart hstop
      exact ⟨_, _, .bank hi off⟩

/-- The decoder selects what the address's form says (R102, R103). -/
theorem IoForm.decode_eq {a : Addr} {r : Instr} {w : Byte → Instr} (h : IoForm a r w) :
    decodeIord a = r ∧ ∀ d, decodeIowr a d = w d := by
  cases h with
  | disk hi off =>
    have hoff := setWidth_start_add_sub (k := 3) (by decide) 0x08 off
    simp only [decodeIord, decodeIowr, ioHigh_ioAddr, ioPort_ioAddr, handlerOf_disk, hoff, implies_true, and_self]
  | sound hi off =>
    have hoff := setWidth_start_add_sub (k := 1) (by decide) 0x10 off
    simp only [decodeIord, decodeIowr, ioHigh_ioAddr, ioPort_ioAddr, handlerOf_sound, hoff, implies_true, and_self]
  | uart hi off =>
    have hoff := setWidth_start_add_sub (k := 3) (by decide) 0x18 off
    simp only [decodeIord, decodeIowr, ioHigh_ioAddr, ioPort_ioAddr, handlerOf_uart, hoff, implies_true, and_self]
  | timer hi off =>
    have hoff := setWidth_start_add_sub (k := 2) (by decide) 0x20 off
    simp only [decodeIord, decodeIowr, ioHigh_ioAddr, ioPort_ioAddr, handlerOf_timer, hoff, implies_true, and_self]
  | video hi off =>
    have hoff := setWidth_start_add_sub (k := 2) (by decide) 0x98 off
    simp only [decodeIord, decodeIowr, ioHigh_ioAddr, ioPort_ioAddr, handlerOf_video, hoff, implies_true, and_self]
  | bank hi index =>
    have hoff := setWidth_start_add_sub (k := 2) (by decide) 0xFC index
    simp only [decodeIord, decodeIowr, ioHigh_ioAddr, ioPort_ioAddr, handlerOf_bank, hoff, implies_true, and_self]
  | unmapped hi port hp =>
    have hport := (handlerOf_eq_none_iff port).2 hp
    simp only [decodeIord, decodeIowr, ioHigh_ioAddr, ioPort_ioAddr, hport, implies_true, and_self]

/-- Every I/O address has the form that the decoder selects from it. -/
theorem ioForm (a : Addr) : IoForm a (decodeIord a) (decodeIowr a) := by
  obtain ⟨r, w, h⟩ := exists_ioForm a
  obtain ⟨hr, hw⟩ := h.decode_eq
  rwa [hr, funext hw]

/-- What an I/O address stands for is well formed, and encoded with that address (R62, R64). -/
theorem IoForm.wf_encode {a : Addr} {r : Instr} {w : Byte → Instr} (h : IoForm a r w) :
    (r.wf = true ∧ encode r = Word.pack 0b010 a 0) ∧
      ∀ d, (w d).wf = true ∧ encode (w d) = Word.pack 0b011 a d := by
  cases h with
  | unmapped hi port hp => exact ⟨⟨hp, rfl⟩, fun _ => ⟨hp, rfl⟩⟩
  | _ => exact ⟨⟨rfl, rfl⟩, fun _ => ⟨rfl, rfl⟩⟩

/-- The CPU issues every I/O transaction (R61). -/
theorem IoForm.caller_eq {a : Addr} {r : Instr} {w : Byte → Instr} (h : IoForm a r w) :
    Board.caller r = some .cpu ∧ ∀ d, Board.caller (w d) = some .cpu := by
  cases h <;> exact ⟨rfl, fun _ => rfl⟩

/-! ## What the decoder answers -/

/-- What the decoder answers on a container, said once: the words of the transactions (R60 to R63), and the
containers that hold none, with the ground reported (R70, log 31). -/
inductive Decoding : Container → Except Reject Instr → Prop
  | memrd (a : Addr) : Decoding (Word.pack 0b000 a 0) (.ok (.memrd a))
  | memwr (a : Addr) (d : Byte) : Decoding (Word.pack 0b001 a d) (.ok (.memwr a d))
  | iord {a : Addr} {r : Instr} {w : Byte → Instr} (h : IoForm a r w) : Decoding (Word.pack 0b010 a 0) (.ok r)
  | iowr {a : Addr} {r : Instr} {w : Byte → Instr} (h : IoForm a r w) (d : Byte) :
      Decoding (Word.pack 0b011 a d) (.ok (w d))
  | signalVideo (b : Bool) : Decoding (Word.pack 0b100 0x0000 (signalData b)) (.ok (.signalVideo b))
  | signalSound (b : Bool) : Decoding (Word.pack 0b100 0x0001 (signalData b)) (.ok (.signalSound b))
  | signalUart (b : Bool) : Decoding (Word.pack 0b100 0x0002 (signalData b)) (.ok (.signalUart b))
  | signalTimer (b : Bool) : Decoding (Word.pack 0b100 0x0003 (signalData b)) (.ok (.signalTimer b))
  | reset : Decoding (Word.pack 0b101 0x0000 0) (.ok .reset)
  | reserved110 (r : BitVec 24) : Decoding (Word.packRest 0b110 r) (.ok (.reserved110 r))
  | reserved111 (r : BitVec 24) : Decoding (Word.packRest 0b111 r) (.ok (.reserved111 r))
  | bitAbove26 {w : Container} (h : Word.above w ≠ 0) : Decoding w (.error .bitAbove26)
  | memrdData (a : Addr) {d : Byte} (h : d ≠ 0) : Decoding (Word.pack 0b000 a d) (.error .memrdData)
  | iordData (a : Addr) {d : Byte} (h : d ≠ 0) : Decoding (Word.pack 0b010 a d) (.error .iordData)
  | signalAddr {a : Addr} (d : Byte) (h : a.extractLsb' 2 14 ≠ 0) :
      Decoding (Word.pack 0b100 a d) (.error .signalAddr)
  | signalData {a : Addr} {d : Byte} (ha : a.extractLsb' 2 14 = 0) (h : d.extractLsb' 1 7 ≠ 0) :
      Decoding (Word.pack 0b100 a d) (.error .signalData)
  | resetAddr {a : Addr} (d : Byte) (h : a ≠ 0) : Decoding (Word.pack 0b101 a d) (.error .resetAddr)
  | resetData {d : Byte} (h : d ≠ 0) : Decoding (Word.pack 0b101 0x0000 d) (.error .resetData)

/-- The decoder answers so: a packed word gives its fields back, and they pick the branch. -/
theorem Decoding.decode_eq {w : Container} {o : Except Reject Instr} (h : Decoding w o) : decode w = o := by
  cases h with
  | iord hform => simp [decode, hform.decode_eq]
  | iowr hform d => simp [decode, hform.decode_eq]
  | signalVideo b => cases b <;> rfl
  | signalSound b => cases b <;> rfl
  | signalUart b => cases b <;> rfl
  | signalTimer b => cases b <;> rfl
  | _ => simp_all [decode]

/-- A kind is one of eight (R61). -/
theorem kind_cases (k : BitVec 3) :
    k = 0b000 ∨ k = 0b001 ∨ k = 0b010 ∨ k = 0b011 ∨ k = 0b100 ∨ k = 0b101 ∨ k = 0b110 ∨ k = 0b111 := by
  revert k
  decide

/-- The bits from `s` up are zero exactly when the number is below `2 ^ s`. -/
theorem extractLsb'_eq_zero_iff_lt {w s n : Nat} (hw : w ≤ s + n) (x : BitVec w) :
    x.extractLsb' s n = 0 ↔ x.toNat < 2 ^ s := by
  have hlt : x.toNat / 2 ^ s < 2 ^ n :=
    Nat.div_lt_of_lt_mul (x.isLt.trans_le (pow_add 2 s n ▸ Nat.pow_le_pow_right two_pos hw))
  rw [← BitVec.toNat_inj, BitVec.extractLsb'_toNat, Nat.shiftRight_eq_div_pow, Nat.mod_eq_of_lt hlt]
  simp [Nat.div_eq_zero_iff]

/-- With `addr[15:2]` zero, the address is its source id (R63). -/
theorem eq_setWidth_of_extractLsb'_eq_zero {a : Addr} (h : a.extractLsb' 2 14 = 0) :
    a = (a.extractLsb' 0 2).setWidth 16 := by
  have hlt : a.toNat < 2 ^ 2 := (extractLsb'_eq_zero_iff_lt (by decide) a).1 h
  apply BitVec.eq_of_toNat_eq
  rw [BitVec.toNat_setWidth, BitVec.extractLsb'_toNat, Nat.shiftRight_zero]
  omega

/-- With `data[7:1]` zero, the data byte is its raw level (R62). -/
theorem eq_signalData_of_extractLsb'_eq_zero : ∀ d : Byte, d.extractLsb' 1 7 = 0 → d = signalData (d.getLsbD 0) := by
  decide

/-- Every word of kind SIGNAL is answered: by its source id, or for the field that is not zero (R62, R63). -/
theorem exists_decoding_signal (a : Addr) (d : Byte) : ∃ o, Decoding (Word.pack 0b100 a d) o := by
  by_cases ha : a.extractLsb' 2 14 = 0
  · by_cases hd : d.extractLsb' 1 7 = 0
    · rw [eq_setWidth_of_extractLsb'_eq_zero ha, eq_signalData_of_extractLsb'_eq_zero d hd]
      obtain hid | hid | hid | hid := window_cases (a.extractLsb' 0 2) <;> rw [hid]
      · exact ⟨_, .signalVideo _⟩
      · exact ⟨_, .signalSound _⟩
      · exact ⟨_, .signalUart _⟩
      · exact ⟨_, .signalTimer _⟩
    · exact ⟨_, .signalData ha hd⟩
  · exact ⟨_, .signalAddr d ha⟩

/-- Every word of kind RESET is answered: as the reset, or for the field that is not zero (R62). -/
theorem exists_decoding_reset (a : Addr) (d : Byte) : ∃ o, Decoding (Word.pack 0b101 a d) o := by
  obtain rfl | ha := eq_or_ne a 0
  · obtain rfl | hd := eq_or_ne d 0
    · exact ⟨_, .reset⟩
    · exact ⟨_, .resetData hd⟩
  · exact ⟨_, .resetAddr d ha⟩

/-- Every container is answered: for a bit above bit 26, or by its kind. -/
theorem exists_decoding (w : Container) : ∃ o, Decoding w o := by
  by_cases habove : Word.above w = 0
  · have hpack := Word.pack_fields habove
    have hrest := Word.packRest_fields habove
    generalize Word.addr w = a, Word.data w = d, Word.rest w = r at hpack hrest
    obtain hk | hk | hk | hk | hk | hk | hk | hk := kind_cases (Word.kind w) <;> rw [hk] at hpack hrest
    · obtain rfl | hd := eq_or_ne d 0 <;> rw [← hpack]
      · exact ⟨_, .memrd a⟩
      · exact ⟨_, .memrdData a hd⟩
    · rw [← hpack]
      exact ⟨_, .memwr a d⟩
    · obtain rfl | hd := eq_or_ne d 0 <;> rw [← hpack]
      · exact ⟨_, .iord (ioForm a)⟩
      · exact ⟨_, .iordData a hd⟩
    · rw [← hpack]
      exact ⟨_, .iowr (ioForm a) d⟩
    · rw [← hpack]
      exact exists_decoding_signal a d
    · rw [← hpack]
      exact exists_decoding_reset a d
    · rw [← hrest]
      exact ⟨_, .reserved110 r⟩
    · rw [← hrest]
      exact ⟨_, .reserved111 r⟩
  · exact ⟨_, .bitAbove26 habove⟩

/-- What the decoder answers on a container is one of the answers above. -/
theorem decoding (w : Container) : Decoding w (decode w) := by
  obtain ⟨o, h⟩ := exists_decoding w
  rwa [h.decode_eq]

/-! ## The round trips -/

/-- Settles O1: each instruction's word is one that `Decoding` answers with that instruction. -/
theorem decodeEncodeRoundTrip : Obligations.DecodeEncodeRoundTrip := by
  intro i hwf
  apply Decoding.decode_eq
  cases i with
  | memrd a => exact .memrd a
  | memwr a d => exact .memwr a d
  | iordDisk hi off => exact .iord (.disk hi off)
  | iowrDisk hi off d => exact .iowr (.disk hi off) d
  | iordSound hi off => exact .iord (.sound hi off)
  | iowrSound hi off d => exact .iowr (.sound hi off) d
  | iordUart hi off => exact .iord (.uart hi off)
  | iowrUart hi off d => exact .iowr (.uart hi off) d
  | iordTimer hi off => exact .iord (.timer hi off)
  | iowrTimer hi off d => exact .iowr (.timer hi off) d
  | iordVideo hi off => exact .iord (.video hi off)
  | iowrVideo hi off d => exact .iowr (.video hi off) d
  | iordBank hi index => exact .iord (.bank hi index)
  | iowrBank hi index d => exact .iowr (.bank hi index) d
  | iordUnmapped hi port => exact .iord (.unmapped hi port hwf)
  | iowrUnmapped hi port d => exact .iowr (.unmapped hi port hwf) d
  | signalVideo b => exact .signalVideo b
  | signalSound b => exact .signalSound b
  | signalUart b => exact .signalUart b
  | signalTimer b => exact .signalTimer b
  | reset => exact .reset
  | reserved110 r => exact .reserved110 r
  | reserved111 r => exact .reserved111 r

/-- Settles O2: each word that `Decoding` answers with an instruction is that instruction's word. -/
theorem encodeDecodeRoundTrip : Obligations.EncodeDecodeRoundTrip := by
  intro w i h
  have hw := decoding w
  rw [h] at hw
  cases hw with
  | iord hform => exact hform.wf_encode.1
  | iowr hform d => exact hform.wf_encode.2 d
  | _ => exact ⟨rfl, rfl⟩

/-! ## The opcode table -/

/-- Two containers are equal when their four fields are. -/
theorem container_eq_iff_fields (w v : Container) :
    w = v ↔ Word.above w = Word.above v ∧ Word.kind w = Word.kind v ∧ Word.addr w = Word.addr v ∧
      Word.data w = Word.data v := by
  simp only [← BitVec.toNat_inj, Word.above_toNat, Word.kind_toNat, Word.addr_toNat, Word.data_toNat]
  omega

/-- A row's mask and match compared with a word field by field. -/
def rowMatches (k : BitVec 3) (a : Addr) (d : Byte) (r : Row) : Bool :=
  decide (k &&& Word.kind r.mask = Word.kind r.pattern ∧ a &&& Word.addr r.mask = Word.addr r.pattern ∧
    d &&& Word.data r.mask = Word.data r.pattern)

/-- No row asks for a bit above bit 26. -/
theorem above_pattern : ∀ r ∈ opcodeRows, Word.above r.pattern = 0 := by
  decide

/-- Comparing the whole word is comparing its fields. -/
theorem holds_eq_rowMatches {w : Container} (h : Word.above w = 0) {r : Row} (hr : r ∈ opcodeRows) :
    r.holds w = rowMatches (Word.kind w) (Word.addr w) (Word.data w) r := by
  have habove : Word.above (w &&& r.mask) = Word.above r.pattern := by
    rw [above_pattern r hr, Word.above, BitVec.extractLsb'_and]
    exact (congrArg (· &&& _) h).trans BitVec.zero_and
  rw [Row.holds, rowMatches, decide_eq_decide, container_eq_iff_fields, habove]
  simp only [true_and, Word.kind, Word.addr, Word.data, BitVec.extractLsb'_and]

/-- The mnemonic of the first of some rows that matches three fields. -/
def firstName (rows : List Row) (k : BitVec 3) (a : Addr) (d : Byte) : Option String :=
  (rows.find? (rowMatches k a d)).map (·.mnemonic)

@[simp] theorem firstName_nil (k : BitVec 3) (a : Addr) (d : Byte) : firstName [] k a d = none := rfl

@[simp] theorem firstName_cons (r : Row) (rows : List Row) (k : BitVec 3) (a : Addr) (d : Byte) :
    firstName (r :: rows) k a d = if rowMatches k a d r then some r.mnemonic else firstName rows k a d := by
  unfold firstName
  cases h : rowMatches k a d r <;> simp [h]

/-- The opcode table reads a word through its fields. -/
theorem tableMnemonic_eq_firstName {w : Container} (h : Word.above w = 0) :
    tableMnemonic w = firstName opcodeRows (Word.kind w) (Word.addr w) (Word.data w) := by
  rw [tableMnemonic, if_neg (not_not.2 h), firstName, List.find?_congr fun r hr => holds_eq_rowMatches h hr]

theorem tableMnemonic_pack (k : BitVec 3) (a : Addr) (d : Byte) :
    tableMnemonic (Word.pack k a d) = firstName opcodeRows k a d := by
  rw [tableMnemonic_eq_firstName (Word.above_pack k a d), Word.kind_pack, Word.addr_pack, Word.data_pack]

theorem tableMnemonic_packRest (k : BitVec 3) (r : BitVec 24) : tableMnemonic (Word.packRest k r) =
    firstName opcodeRows k (Word.addr (Word.packRest k r)) (Word.data (Word.packRest k r)) := by
  rw [tableMnemonic_eq_firstName (Word.above_packRest k r), Word.kind_packRest]

/-- A mask that lies in the port compares the port alone (R65, R100). -/
theorem and_setWidth_eq_iff (a : Addr) (m v : Byte) :
    a &&& m.setWidth 16 = v.setWidth 16 ↔ ioPort a &&& m = v := by
  have hport : a &&& m.setWidth 16 = (ioPort a &&& m).setWidth 16 := by
    ext i hi
    simp only [ioPort, BitVec.getElem_and, BitVec.getElem_setWidth, BitVec.getLsbD_and, BitVec.getLsbD_extractLsb',
      Nat.zero_add]
    rw [BitVec.getLsbD_eq_getElem hi]
    by_cases h : i < 8
    · simp [h]
    · simp [BitVec.getLsbD_of_ge m i (Nat.le_of_not_lt h)]
  rw [hport]
  exact ⟨fun h => by simpa using congrArg (BitVec.setWidth 8) h, congrArg _⟩

/-- The handler that an I/O address selects, told by the masks of the opcode table. -/
theorem handlerOf_ioPort (a : Addr) : Board.handlerOf (ioPort a) =
    if a &&& 0x00F8#16 = 0x0008#16 then some ⟨0x08, 0x0F, .disk⟩
    else if a &&& 0x00FE#16 = 0x0010#16 then some ⟨0x10, 0x11, .sound⟩
    else if a &&& 0x00F8#16 = 0x0018#16 then some ⟨0x18, 0x1F, .uart⟩
    else if a &&& 0x00FC#16 = 0x0020#16 then some ⟨0x20, 0x23, .timer⟩
    else if a &&& 0x00FC#16 = 0x0098#16 then some ⟨0x98, 0x9B, .video⟩
    else if a &&& 0x00FC#16 = 0x00FC#16 then some ⟨0xFC, 0xFF, .bank⟩
    else none := by
  rw [handlerOf_eq]
  simp only [← and_setWidth_eq_iff]
  rfl

/-- The name of an I/O read, told by the masks of the opcode table. -/
theorem mnemonic_decodeIord (a : Addr) : some (decodeIord a).mnemonic =
    if a &&& 0x00F8#16 = 0x0008#16 then some "IORD.DISK"
    else if a &&& 0x00FE#16 = 0x0010#16 then some "IORD.SOUND"
    else if a &&& 0x00F8#16 = 0x0018#16 then some "IORD.UART"
    else if a &&& 0x00FC#16 = 0x0020#16 then some "IORD.TIMER"
    else if a &&& 0x00FC#16 = 0x0098#16 then some "IORD.VIDEO"
    else if a &&& 0x00FC#16 = 0x00FC#16 then some "IORD.BANK"
    else some "IORD.UNMAPPED" := by
  rw [decodeIord, handlerOf_ioPort]
  split_ifs <;> rfl

/-- The name of an I/O write, told by the masks of the opcode table. -/
theorem mnemonic_decodeIowr (a : Addr) (d : Byte) : some (decodeIowr a d).mnemonic =
    if a &&& 0x00F8#16 = 0x0008#16 then some "IOWR.DISK"
    else if a &&& 0x00FE#16 = 0x0010#16 then some "IOWR.SOUND"
    else if a &&& 0x00F8#16 = 0x0018#16 then some "IOWR.UART"
    else if a &&& 0x00FC#16 = 0x0020#16 then some "IOWR.TIMER"
    else if a &&& 0x00FC#16 = 0x0098#16 then some "IOWR.VIDEO"
    else if a &&& 0x00FC#16 = 0x00FC#16 then some "IOWR.BANK"
    else some "IOWR.UNMAPPED" := by
  rw [decodeIowr, handlerOf_ioPort]
  split_ifs <;> rfl

/-! The row of each kind of word: its first match in the table, every row of another kind failing on the kind. -/

@[simp] theorem byte_and_0xFF (d : Byte) : d &&& 0xFF#8 = d := BitVec.and_allOnes

@[simp] theorem addr_and_0xFFFF (a : Addr) : a &&& 0xFFFF#16 = a := BitVec.and_allOnes

theorem byte_and_0xFE_eq_zero_iff (d : Byte) : d &&& 0xFE#8 = 0#8 ↔ d.extractLsb' 1 7 = 0#7 := by
  revert d
  decide

theorem firstName_memrd (a : Addr) (d : Byte) :
    firstName opcodeRows 0b000 a d = if d = 0 then some "MEMRD" else none := by
  simp [opcodeRows, rowMatches, Word.kind, Word.addr, Word.data]

theorem firstName_memwr (a : Addr) (d : Byte) : firstName opcodeRows 0b001 a d = some "MEMWR" := by
  simp [opcodeRows, rowMatches, Word.kind, Word.addr, Word.data]

theorem firstName_iord (a : Addr) (d : Byte) :
    firstName opcodeRows 0b010 a d = if d = 0 then some (decodeIord a).mnemonic else none := by
  rw [mnemonic_decodeIord]
  by_cases hd : d = 0#8 <;> simp [opcodeRows, rowMatches, Word.kind, Word.addr, Word.data, hd]

theorem firstName_iowr (a : Addr) (d : Byte) :
    firstName opcodeRows 0b011 a d = some (decodeIowr a d).mnemonic := by
  rw [mnemonic_decodeIowr]
  simp [opcodeRows, rowMatches, Word.kind, Word.addr, Word.data]

theorem firstName_signal (a : Addr) (d : Byte) : firstName opcodeRows 0b100 a d =
    if d.extractLsb' 1 7 ≠ 0 then none
    else if a = 0x0000 then some "SIGNAL.VIDEO" else if a = 0x0001 then some "SIGNAL.SOUND"
    else if a = 0x0002 then some "SIGNAL.UART" else if a = 0x0003 then some "SIGNAL.TIMER" else none := by
  by_cases hd : d.extractLsb' 1 7 = 0#7 <;>
    simp [opcodeRows, rowMatches, Word.kind, Word.addr, Word.data, byte_and_0xFE_eq_zero_iff, hd]

theorem firstName_reset (a : Addr) (d : Byte) :
    firstName opcodeRows 0b101 a d = if a = 0 ∧ d = 0 then some "RESET" else none := by
  simp [opcodeRows, rowMatches, Word.kind, Word.addr, Word.data]

theorem firstName_reserved110 (a : Addr) (d : Byte) : firstName opcodeRows 0b110 a d = some "RESERVED.110" := by
  simp [opcodeRows, rowMatches, Word.kind, Word.addr, Word.data]

theorem firstName_reserved111 (a : Addr) (d : Byte) : firstName opcodeRows 0b111 a d = some "RESERVED.111" := by
  simp [opcodeRows, rowMatches, Word.kind, Word.addr, Word.data]

/-- A SIGNAL word with `addr[15:2]` not zero has no row: the source ids are 0 to 3 (R63). -/
theorem firstName_signal_of_addr {a : Addr} (d : Byte) (h : a.extractLsb' 2 14 ≠ 0) :
    firstName opcodeRows 0b100 a d = none := by
  have hid : a ≠ 0 ∧ a ≠ 1 ∧ a ≠ 2 ∧ a ≠ 3 := by
    refine ⟨?_, ?_, ?_, ?_⟩ <;> rintro rfl <;> exact h rfl
  obtain ⟨h0, h1, h2, h3⟩ := hid
  rw [firstName_signal, if_neg h0, if_neg h1, if_neg h2, if_neg h3, ite_self]

/-- The opcode table names what the decoder answers, in every case of the decoder. -/
theorem Decoding.tableMnemonic_eq {w : Container} {o : Except Reject Instr} (h : Decoding w o) :
    tableMnemonic w = o.toOption.map (·.mnemonic) := by
  cases h with
  | memrd a => exact (tableMnemonic_pack _ _ _).trans (firstName_memrd a 0)
  | memwr a d => exact (tableMnemonic_pack _ _ _).trans (firstName_memwr a d)
  | @iord a _ _ hform =>
    obtain ⟨rfl, -⟩ := hform.decode_eq
    exact (tableMnemonic_pack _ _ _).trans (firstName_iord a 0)
  | @iowr a _ _ hform d =>
    rw [← hform.decode_eq.2]
    exact (tableMnemonic_pack _ _ _).trans (firstName_iowr a d)
  | signalVideo b => cases b <;> rfl
  | signalSound b => cases b <;> rfl
  | signalUart b => cases b <;> rfl
  | signalTimer b => cases b <;> rfl
  | reset => rfl
  | reserved110 r => exact (tableMnemonic_packRest _ r).trans (firstName_reserved110 _ _)
  | reserved111 r => exact (tableMnemonic_packRest _ r).trans (firstName_reserved111 _ _)
  | bitAbove26 h => exact if_pos h
  | memrdData a h => exact (tableMnemonic_pack _ _ _).trans ((firstName_memrd a _).trans (if_neg h))
  | iordData a h => exact (tableMnemonic_pack _ _ _).trans ((firstName_iord a _).trans (if_neg h))
  | signalAddr d h => exact (tableMnemonic_pack _ _ _).trans (firstName_signal_of_addr d h)
  | @signalData a d _ h => exact (tableMnemonic_pack _ _ _).trans ((firstName_signal a d).trans (if_pos h))
  | @resetAddr a d h => exact (tableMnemonic_pack _ _ _).trans ((firstName_reset a d).trans (if_neg (h ·.1)))
  | @resetData d h => exact (tableMnemonic_pack _ _ _).trans ((firstName_reset 0 d).trans (if_neg (h ·.2)))

/-- Settles O3: the table agrees with each answer of the decoder. -/
theorem decoderAgreesWithOpcodeTable : Obligations.DecoderAgreesWithOpcodeTable := by
  intro w
  rw [(decoding w).tableMnemonic_eq]
  cases decode w <;> rfl

/-! ## Refusals -/

/-- Settles O50: each reserved kind's meaning is its refusal. -/
theorem reservedKindsAreRefused : Obligations.ReservedKindsAreRefused :=
  fun _ _ => ⟨rfl, rfl⟩

/-- A meaning is refused exactly when no agent issues the transaction (R61, R70). -/
theorem exec_refused_iff (i : Instr) (s : State) : (∃ r, exec i s = .refused r) ↔ Board.caller i = none := by
  constructor
  · rintro ⟨r, h⟩
    obtain ⟨x, rfl⟩ | ⟨x, rfl⟩ := exec_refused h <;> rfl
  · intro h
    cases i with
    | reserved110 x => exact ⟨_, (reservedKindsAreRefused s x).1⟩
    | reserved111 x => exact ⟨_, (reservedKindsAreRefused s x).2⟩
    | _ => cases h

/-- A wired machine refuses a container that the decoder rejects. -/
theorem step_of_decode_error {s : State} {w : Container} {ws : List Container} {why : Reject} (hwf : s.cfg.wf)
    (hp : s.pending = w :: ws) (hd : decode w = .error why) : step s = .refused (.badWord why) := by
  rw [step, if_pos hwf, fetch_of_pending_cons hp]
  simp only [hd]

/-- A wired machine's step is refused exactly when the call holds no transaction that an agent issues. -/
theorem step_refused_iff {s : State} {w : Container} {ws : List Container} (hwf : s.cfg.wf)
    (hp : s.pending = w :: ws) :
    (∃ r, step s = .refused r) ↔ ∀ i, decode w = .ok i → Board.caller i = none := by
  cases hd : decode w with
  | error why => simp [step_of_decode_error hwf hp hd]
  | ok i =>
    rw [stepRunsTheDecodedTransaction s w ws i hwf hp hd, exec_refused_iff]
    simp

/-- R70's list in plain arithmetic, as the statement writes it. -/
def listedInR70 (n : Nat) : Prop :=
  2 ^ 27 ≤ n ∨ n / 2 ^ 24 = 6 ∨ n / 2 ^ 24 = 7 ∨ (n / 2 ^ 24 = 0 ∧ n % 2 ^ 8 ≠ 0) ∨
    (n / 2 ^ 24 = 2 ∧ n % 2 ^ 8 ≠ 0) ∨ (n / 2 ^ 24 = 4 ∧ (4 ≤ n / 2 ^ 8 % 2 ^ 16 ∨ 2 ≤ n % 2 ^ 8)) ∨
    (n / 2 ^ 24 = 5 ∧ (n / 2 ^ 8 % 2 ^ 16 ≠ 0 ∨ n % 2 ^ 8 ≠ 0))

/-- A packed word's fields are quotients and remainders of its number (R60). -/
theorem pack_arith (k : BitVec 3) (a : Addr) (d : Byte) :
    (Word.pack k a d).toNat / 2 ^ 24 = k.toNat ∧ (Word.pack k a d).toNat / 2 ^ 8 % 2 ^ 16 = a.toNat ∧
      (Word.pack k a d).toNat % 2 ^ 8 = d.toNat := by
  have ha := a.isLt
  have hd := d.isLt
  rw [Word.pack_toNat]
  omega

/-- R70's list in the fields of a word. -/
theorem listedInR70_pack (k : BitVec 3) (a : Addr) (d : Byte) : listedInR70 (Word.pack k a d).toNat ↔
    k = 6 ∨ k = 7 ∨ (k = 0 ∧ d ≠ 0) ∨ (k = 2 ∧ d ≠ 0) ∨
      (k = 4 ∧ (a.extractLsb' 2 14 ≠ 0 ∨ d.extractLsb' 1 7 ≠ 0)) ∨ (k = 5 ∧ (a ≠ 0 ∨ d ≠ 0)) := by
  obtain ⟨hk, ha, hd⟩ := pack_arith k a d
  have haddr : a.extractLsb' 2 14 ≠ 0 ↔ 4 ≤ a.toNat :=
    (not_congr (extractLsb'_eq_zero_iff_lt (by decide) a)).trans not_lt
  have hdata : d.extractLsb' 1 7 ≠ 0 ↔ 2 ≤ d.toNat :=
    (not_congr (extractLsb'_eq_zero_iff_lt (by decide) d)).trans not_lt
  rw [listedInR70, hk, ha, hd, haddr, hdata, or_iff_right (Word.pack_lt k a d).not_ge]
  simp only [Ne, ← BitVec.toNat_inj]
  exact Iff.rfl

/-- Every word of a reserved kind is listed. -/
theorem listedInR70_packRest {k : BitVec 3} (r : BitVec 24) (hk : k = 6 ∨ k = 7) :
    listedInR70 (Word.packRest k r).toNat := by
  have hr := r.isLt
  rw [listedInR70, Word.packRest_toNat]
  obtain rfl | rfl := hk
  · exact .inr (.inl (by simp only [BitVec.reduceToNat]; omega))
  · exact .inr (.inr (.inl (by simp only [BitVec.reduceToNat]; omega)))

/-- Every container with a bit above bit 26 is listed. -/
theorem listedInR70_of_above {w : Container} (h : Word.above w ≠ 0) : listedInR70 w.toNat :=
  .inl (Nat.le_of_not_lt (mt (Word.above_eq_zero w).2 h))

/-- R70 lists the containers that the decoder rejects or answers with a transaction that no agent issues. -/
theorem Decoding.unissued_iff {w : Container} {o : Except Reject Instr} (h : Decoding w o) :
    (∀ i, o = .ok i → Board.caller i = none) ↔ listedInR70 w.toNat := by
  cases h with
  | memrd a => simp [listedInR70_pack, Board.caller]
  | memwr a d => simp [listedInR70_pack, Board.caller]
  | iord hform => simp [listedInR70_pack, hform.caller_eq]
  | iowr hform d => simp [listedInR70_pack, hform.caller_eq]
  | signalVideo b => cases b <;> simp [listedInR70_pack, Board.caller, Sys2Proof.signalData]
  | signalSound b => cases b <;> simp [listedInR70_pack, Board.caller, Sys2Proof.signalData]
  | signalUart b => cases b <;> simp [listedInR70_pack, Board.caller, Sys2Proof.signalData]
  | signalTimer b => cases b <;> simp [listedInR70_pack, Board.caller, Sys2Proof.signalData]
  | reset => simp [listedInR70_pack, Board.caller]
  | reserved110 r => simp [listedInR70_packRest, Board.caller]
  | reserved111 r => simp [listedInR70_packRest, Board.caller]
  | bitAbove26 h => simp [listedInR70_of_above h]
  | _ => simp_all [listedInR70_pack]

/-- Settles O4: a step is refused on the calls that no agent issues, and R70 lists their words. -/
theorem refusedExactlyOutsideTheContracts : Obligations.RefusedExactlyOutsideTheContracts := by
  intro s w ws hwf hp
  exact (step_refused_iff hwf hp).trans (decoding w).unissued_iff

/-! ## Test vectors -/

/-- Settles O5: the decoder runs on each word. -/
theorem testVectorWordsDecode : Obligations.TestVectorWordsDecode :=
  ⟨rfl, rfl, rfl, rfl, rfl, rfl, rfl, rfl, rfl, rfl, rfl⟩

end Sys2Proof.Machine
end

section
/-! The statements of 40_memory_cycles.md: what a memory read answers, what a landed memory write stores, and that the
registers of the other windows have no part in a write. -/

namespace Sys2Proof.Machine

/-! ## Operands -/

/-- The window of an address as a quotient, as the statements write it (R42). -/
theorem window_eq_ofNat (a : Addr) : window a = BitVec.ofNat 2 (a.toNat / 16384) := by
  rw [← window_toNat, BitVec.ofNat_toNat, BitVec.setWidth_eq]

/-- The image offset of an address depends on no register but that of its own window (R42, R43). -/
theorem State.phys_bank_congr {s : State} {b : Banks} {a : Addr}
    (h : b.get (window a) = s.bank.get (window a)) : ({ s with bank := b } : State).phys a = s.phys a := by
  rw [State.phys, State.phys, Banks.translate_congr (congrArg page h)]

/-! ## Memory cycles -/

/-- Settles O23: a read returns the byte at the translated offset, and the translation is the statement's. -/
theorem memrdReturnsTheTranslatedByte : Obligations.MemrdReturnsTheTranslatedByte := by
  intro a s
  rw [← window_eq_ofNat, ← State.phys_eq]
  rfl

/-- Settles O24: a register below 128 leaves its window writable, and the image is the old one written at one
offset. -/
theorem memwrThroughAWritableWindowStoresOneByte : Obligations.MemwrThroughAWritableWindowStoresOneByte := by
  intro a d s hwf hlt
  rw [← window_eq_ofNat] at hlt ⊢
  rw [← Nat.mod_eq_of_lt hlt, ← State.phys_eq]
  exact ⟨_, exec_memwr_of_writable d (protect_of_lt hlt), Memory.read_write_self _ d hwf,
    fun _ hx => Memory.read_write_ne s.img d hx, rfl⟩

/-- Settles O26: the window's own register says whether the write lands, and where. -/
theorem otherWindowsDoNotDecideAWrite : Obligations.OtherWindowsDoNotDecideAWrite := by
  intro a d s t b hb h
  cases hp : protect (s.bank.get (window a)) with
  | true =>
    rw [exec_memwr_of_protected d hp] at h
    cases h
    exact exec_memwr_of_protected d (hb ▸ hp)
  | false =>
    rw [exec_memwr_of_writable d hp] at h
    cases h
    rw [exec_memwr_of_writable d (hb ▸ hp), State.phys_bank_congr hb]
    rfl

end Sys2Proof.Machine
end

section
/-! The statements of 41_io_decoder.md: what a step adds to the record of external calls, and what an I/O
transaction does at every port, each range by itself and the two dispatches as a whole. -/

namespace Sys2Proof.Machine

/-! ## The record of external calls -/

/-- A completed transaction makes no external call or one, which is recorded last (R51, R101). -/
theorem Completes.events_cases {i : Instr} {s t : State} (h : Completes i s t) :
    t.events = s.events ∨ ∃ e, t.events = s.events ++ [e] := by
  cases h with
  | extRead _ _ dev off => exact .inr ⟨.extRead dev off, rfl⟩
  | extWrite _ _ dev off v => exact .inr ⟨.extWrite dev off v, rfl⟩
  | ataRead _ _ off => exact .inr ⟨.ataRead16 off, rfl⟩
  | ataWrite _ _ off v => exact .inr ⟨.ataWrite16 off (diskWord v), rfl⟩
  | signal _ _ src raw => exact .inr ⟨.drive (Board.sinkOf src) (sinkValue s.cfg.invert src raw), rfl⟩
  | _ => exact .inl rfl

/-- Settles O9: a step is idle, or completes a transaction from the fetched state, whose record is that of the
state before. -/
theorem stepExtendsTheEventRecord : Obligations.StepExtendsTheEventRecord := by
  intro s t h
  obtain ⟨-, ⟨-, rfl⟩ | ⟨w, ws, i, -, -, hexec⟩⟩ := step_next_cases h
  · exact .inl rfl
  · exact (exec_completes hexec).events_cases

/-! ## The words of I/O transactions -/

/-- An I/O address is its high byte and its port (R62, R65). -/
theorem ioAddr_toNat (hi port : Byte) : (ioAddr hi port).toNat = hi.toNat * 256 + port.toNat := by
  have hhi := hi.isLt
  have hport := port.isLt
  rw [ioAddr, BitVec.toNat_ofNat]
  omega

/-- The port of an I/O address is its low byte (R100). -/
theorem ioPort_toNat (a : Addr) : (ioPort a).toNat = a.toNat % 256 := by
  simp [ioPort]

/-- The number of the port at an offset from a range's start (R64). -/
theorem toNat_start_add {k : Nat} {start : Byte} (hk : start.toNat + 2 ^ k ≤ 256) (off : BitVec k) :
    (start + off.setWidth 8).toNat = start.toNat + off.toNat := by
  have hoff := off.isLt
  rw [BitVec.toNat_add, BitVec.toNat_setWidth]
  omega

/-- The word of an I/O read decodes to the read its address selects (R62, R102). -/
theorem decode_iordWord (a : Addr) :
    decode (BitVec.ofNat 32 (0x2000000 + a.toNat * 256)) = .ok (decodeIord a) :=
  (Decoding.iord (ioForm a)).decode_eq

/-- The word of an I/O write decodes to the write its address selects (R62, R103). -/
theorem decode_iowrWord (a : Addr) (d : Byte) :
    decode (BitVec.ofNat 32 (0x3000000 + a.toNat * 256 + d.toNat)) = .ok (decodeIowr a d) :=
  (Decoding.iowr (ioForm a) d).decode_eq

/-- The word of an I/O read, written with the high address byte and the number of the port (R62, R65). -/
theorem IoForm.decode_read {hi port : Byte} {n : Nat} {r : Instr} {w : Byte → Instr}
    (h : IoForm (ioAddr hi port) r w) (hn : port.toNat = n) :
    decode (BitVec.ofNat 32 (0x2000000 + hi.toNat * 65536 + n * 256)) = .ok r := by
  have hword : 0x2000000 + hi.toNat * 65536 + n * 256 = 0x2000000 + (ioAddr hi port).toNat * 256 := by
    rw [ioAddr_toNat]
    omega
  rw [hword, decode_iordWord, h.decode_eq.1]

/-- The word of an I/O write, written with the high address byte and the number of the port (R62, R65). -/
theorem IoForm.decode_write {hi port : Byte} {n : Nat} {r : Instr} {w : Byte → Instr}
    (h : IoForm (ioAddr hi port) r w) (hn : port.toNat = n) (d : Byte) :
    decode (BitVec.ofNat 32 (0x3000000 + hi.toNat * 65536 + n * 256 + d.toNat)) = .ok (w d) := by
  have hword : 0x3000000 + hi.toNat * 65536 + n * 256 + d.toNat =
      0x3000000 + (ioAddr hi port).toNat * 256 + d.toNat := by
    rw [ioAddr_toNat]
    omega
  rw [hword, decode_iowrWord, h.decode_eq.2]

/-! ## Each range by itself -/

/-- Settles O39: each word is that of its range's form, and the four meanings are one forwarded read. -/
theorem peripheralReadsForwardOneCall : Obligations.PeripheralReadsForwardOneCall := by
  intro s hi
  refine ⟨fun o => ⟨?_, rfl⟩, fun o => ⟨?_, rfl⟩, fun o => ⟨?_, rfl⟩, fun o => ⟨?_, rfl⟩⟩
  · exact (IoForm.sound hi o).decode_read (toNat_start_add (by decide) o)
  · exact (IoForm.uart hi o).decode_read (toNat_start_add (by decide) o)
  · exact (IoForm.timer hi o).decode_read (toNat_start_add (by decide) o)
  · exact (IoForm.video hi o).decode_read (toNat_start_add (by decide) o)

/-- Settles O40: each word is that of its range's form, and the four meanings are one forwarded write. -/
theorem peripheralWritesForwardOneCall : Obligations.PeripheralWritesForwardOneCall := by
  intro s hi d
  refine ⟨fun o => ⟨?_, rfl⟩, fun o => ⟨?_, rfl⟩, fun o => ⟨?_, rfl⟩, fun o => ⟨?_, rfl⟩⟩
  · exact (IoForm.sound hi o).decode_write (toNat_start_add (by decide) o) d
  · exact (IoForm.uart hi o).decode_write (toNat_start_add (by decide) o) d
  · exact (IoForm.timer hi o).decode_write (toNat_start_add (by decide) o) d
  · exact (IoForm.video hi o).decode_write (toNat_start_add (by decide) o) d

/-- Settles O44: the meaning of a bank-port read names no register. -/
theorem bankPortsReadIdle : Obligations.BankPortsReadIdle := by
  intro s hi i b
  exact ⟨(IoForm.bank hi i).decode_read (toNat_start_add (by decide) i), rfl⟩

/-- The read binding of a window in plain arithmetic (R24). -/
theorem Banks.readBind_eq (b : Banks) (w : Window) : b.readBind w = (b.get w).toNat % 128 * 16384 := by
  rw [Banks.readBind, Banks.base, page_toNat]

/-- The write binding of a window in plain arithmetic (R24). -/
theorem Banks.writeBind_eq (b : Banks) (w : Window) :
    b.writeBind w = if (b.get w).toNat < 128 then some ((b.get w).toNat % 128 * 16384) else none := by
  rw [Banks.writeBind, Banks.base, page_toNat, protect_eq]
  by_cases h : (b.get w).toNat < 128
  · simp [h, Nat.not_le.2 h]
  · simp [h, Nat.le_of_not_lt h]

/-- Settles O43: the write stores one register, and the bindings of a window are functions of its register. -/
theorem bankPortWriteStoresTheRegister : Obligations.BankPortWriteStoresTheRegister := by
  intro s hi i d
  refine ⟨(IoForm.bank hi i).decode_write (toNat_start_add (by decide) i) d, s.writeBank i d, rfl, rfl, ?_⟩
  simp only [State.writeBank_bank, Banks.readBind_eq, Banks.writeBind_eq, Banks.get_set_self, true_and]
  intro j hj
  simp only [Banks.get_set_ne s.bank d hj, and_self]

/-- The unmapped ports by their numbers (R67). -/
theorem unmapped_iff (port : Byte) : Board.unmapped port = true ↔
    port.toNat ≤ 0x07 ∨ (0x12 ≤ port.toNat ∧ port.toNat ≤ 0x17) ∨
      (0x24 ≤ port.toNat ∧ port.toNat ≤ 0x97) ∨ (0x9C ≤ port.toNat ∧ port.toNat ≤ 0xFB) := by
  simp [Board.unmapped, BitVec.le_def, or_assoc]

/-- Settles O45: the ports listed are the unmapped ones, and their two meanings forward nothing. -/
theorem unmappedPortsReadIdleAndIgnoreWrites : Obligations.UnmappedPortsReadIdleAndIgnoreWrites := by
  intro s hi port d hport
  have hform := IoForm.unmapped hi port ((unmapped_iff port).2 hport)
  exact ⟨⟨hform.decode_read rfl, rfl⟩, hform.decode_write rfl d, rfl⟩

/-! ## The dispatches as a whole -/

/-- The handler of a port by the port's number (R64, R100). -/
theorem handlerOf_eq_ranges (port : Byte) : Board.handlerOf port =
    if 0x08 ≤ port.toNat ∧ port.toNat ≤ 0x0F then some ⟨0x08, 0x0F, .disk⟩
    else if 0x10 ≤ port.toNat ∧ port.toNat ≤ 0x11 then some ⟨0x10, 0x11, .sound⟩
    else if 0x18 ≤ port.toNat ∧ port.toNat ≤ 0x1F then some ⟨0x18, 0x1F, .uart⟩
    else if 0x20 ≤ port.toNat ∧ port.toNat ≤ 0x23 then some ⟨0x20, 0x23, .timer⟩
    else if 0x98 ≤ port.toNat ∧ port.toNat ≤ 0x9B then some ⟨0x98, 0x9B, .video⟩
    else if 0xFC ≤ port.toNat then some ⟨0xFC, 0xFF, .bank⟩
    else none := by
  revert port
  decide

/-- The offset of a port in a range of at most `2 ^ k` ports is the port's number less that of the start (R64). -/
theorem toNat_sub_start {k start stop : Nat} {port : Byte} (h : start ≤ port.toNat ∧ port.toNat ≤ stop)
    (hk : stop - start < 2 ^ k) : ((port - BitVec.ofNat 8 start).setWidth k).toNat = port.toNat - start := by
  obtain ⟨hstart, hstop⟩ := h
  have hnum : (BitVec.ofNat 8 start).toNat = start :=
    Nat.mod_eq_of_lt (hstart.trans_lt port.isLt)
  rw [BitVec.toNat_setWidth, BitVec.toNat_sub_of_le (by rwa [BitVec.le_def, hnum]), hnum]
  exact Nat.mod_eq_of_lt (by omega)

/-- The index of a bank port is its number's two low bits, since the first bank port is a multiple of 4 (R64). -/
theorem bankIndex_eq (port : Byte) : (port - 0xFC).setWidth 2 = BitVec.ofNat 2 port.toNat := by
  revert port
  decide

/-- A disk read keeps the word's low byte (R132). -/
theorem diskByte_eq_ofNat (w : DiskWord) : diskByte w = BitVec.ofNat 8 w.toNat := by
  apply BitVec.eq_of_toNat_eq
  simp [diskByte]

/-- Settles O37: the read is its handler's, at the port's offset, and the bank ports and the unmapped ports answer
one idle value. -/
theorem ioReadDispatch : Obligations.IoReadDispatch := by
  intro s addr ws hwf hp
  dsimp only
  rw [stepRunsTheDecodedTransaction s _ ws _ hwf hp (decode_iordWord addr), decodeIord, handlerOf_eq_ranges,
    ← ioPort_toNat]
  split_ifs with hdisk hsound huart htimer hvideo hbank
  · rw [← toNat_sub_start (k := 3) hdisk (by decide), ← diskByte_eq_ofNat]
    rfl
  · rw [← toNat_sub_start (k := 1) hsound (by decide)]
    rfl
  · rw [← toNat_sub_start (k := 3) huart (by decide)]
    rfl
  · rw [← toNat_sub_start (k := 2) htimer (by decide)]
    rfl
  · rw [← toNat_sub_start (k := 2) hvideo (by decide)]
    rfl
  · rfl
  · rfl

/-- Settles O38: the write is its handler's, at the port's offset, and an unmapped port ignores it. -/
theorem ioWriteDispatch : Obligations.IoWriteDispatch := by
  intro s addr d ws hwf hp
  dsimp only
  rw [stepRunsTheDecodedTransaction s _ ws _ hwf hp (decode_iowrWord addr d), decodeIowr, handlerOf_eq_ranges,
    ← ioPort_toNat]
  split_ifs with hdisk hsound huart htimer hvideo hbank
  · rw [← toNat_sub_start (k := 3) hdisk (by decide), BitVec.ofNat_toNat]
    rfl
  · rw [← toNat_sub_start (k := 1) hsound (by decide)]
    rfl
  · rw [← toNat_sub_start (k := 3) huart (by decide)]
    rfl
  · rw [← toNat_sub_start (k := 2) htimer (by decide)]
    rfl
  · rw [← toNat_sub_start (k := 2) hvideo (by decide)]
    rfl
  · rw [← bankIndex_eq]
    rfl
  · rfl

end Sys2Proof.Machine
end

section
/-! The statements of 42_ata_adapter.md: the one external call of a disk access, and the byte lane of its word. -/

namespace Sys2Proof.Machine

/-- The whole effect of a disk read (R130, R133). -/
theorem exec_iordDisk (hi : Byte) (o : BitVec 3) (s : State) : exec (.iordDisk hi o) s = .next { s with
    events := s.events ++ [.ataRead16 o.toNat],
    response := some (diskByte (Config.ataAnswer s.taken s.events o.toNat)) } := rfl

/-- The whole effect of a disk write (R131, R133). -/
theorem exec_iowrDisk (hi : Byte) (o : BitVec 3) (d : Byte) (s : State) : exec (.iowrDisk hi o d) s = .next { s with
    events := s.events ++ [.ataWrite16 o.toNat (diskWord d)], response := none } := rfl

/-- The byte kept of a disk word is the word's value modulo 256 (R132; D6). -/
theorem diskByte_eq_ofNat_mod (w : DiskWord) : diskByte w = BitVec.ofNat 8 (w.toNat % 256) := by
  rw [diskByte_eq_ofNat]
  exact BitVec.eq_of_toNat_eq (Nat.mod_mod w.toNat 256).symm

/-- The disk word sent for a byte has the byte's value, so its high lane is zero (R132; D6). -/
theorem diskWord_eq_ofNat (d : Byte) : diskWord d = BitVec.ofNat 16 d.toNat := by
  rw [diskWord, BitVec.ofNat_toNat]

/-- Settles O41: the byte returned is that of the answered word, and the word written is a function of the byte
sent. -/
theorem eachDiskAccessIsOneCall : Obligations.EachDiskAccessIsOneCall := by
  intro o
  exact ⟨fun hi s => ⟨_, exec_iordDisk hi o s⟩, fun d => ⟨diskWord d, fun hi s => exec_iowrDisk hi o d s⟩⟩

/-- Settles O42: each access is its one call, with the lane written as arithmetic on the word's value. -/
theorem diskBytesUseTheLowLane : Obligations.DiskBytesUseTheLowLane := by
  intro s hi d o
  rw [← diskByte_eq_ofNat_mod, ← diskWord_eq_ofNat]
  exact ⟨exec_iordDisk hi o s, exec_iowrDisk hi o d s⟩

end Sys2Proof.Machine
end

section
/-! The statements of 43_interrupt_fabric.md: what a signal call records and drives, the routing and its default
polarity, and that every sink follows its source's line. -/

namespace Sys2Proof.Machine

/-! ## Signal calls -/

/-- The level a sink sees is the raw value, complemented where the polarity table says so (R141). -/
theorem sinkValue_eq_ite (p : Polarity) (src : Source) (raw : Bool) :
    sinkValue p src raw = if invertOf p src then !raw else raw := by
  cases h : invertOf p src <;> simp [sinkValue, h]

/-- The whole effect of a signal change, with its polarity written as a choice (R142 to R145). -/
theorem State.signal_eq (s : State) (src : Source) (raw : Bool) : s.signal src raw = { s with
    line := s.line.set src (some raw), response := none,
    events := s.events ++ [.drive (Board.sinkOf src) (if invertOf s.cfg.invert src then !raw else raw)] } := by
  rw [← sinkValue_eq_ite]
  rfl

/-- A signal call's word: its kind and source id make up a number, to which an asserted level adds one (R62, R63). -/
theorem Decoding.decode_signal {a : Addr} {n : Nat} {i : Instr} {b : Bool}
    (h : Decoding (Word.pack 0b100 a (Sys2Proof.signalData b)) (.ok i)) (hn : 0x4000000 + a.toNat * 256 = n) :
    decode (BitVec.ofNat 32 (n + cond b 1 0)) = .ok i := by
  rw [← h.decode_eq, ← hn]
  cases b <;> rfl

/-- Settles O46: each word is that of its source's id, and the four meanings are one signal change. -/
theorem signalCallsRecordAndDrive : Obligations.SignalCallsRecordAndDrive := by
  intro s b
  have heffect (src : Source) := congrArg (Host.Outcome.next (φ := Fault) (ρ := Refusal)) (s.signal_eq src b)
  exact ⟨⟨(Decoding.signalVideo b).decode_signal rfl, heffect .video⟩,
    ⟨(Decoding.signalSound b).decode_signal rfl, heffect .sound⟩,
    ⟨(Decoding.signalUart b).decode_signal rfl, heffect .uart⟩,
    ⟨(Decoding.signalTimer b).decode_signal rfl, heffect .timer⟩⟩

/-- No two sources share a sink, since a sink names its source (R140). -/
theorem sinkOf_injective : Function.Injective Board.sinkOf := by
  intro x y h
  have hx : Board.sourceOf (Board.sinkOf x) = some x := (sourceOf_eq_some _ x).2 rfl
  have hy : Board.sourceOf (Board.sinkOf x) = some y := (sourceOf_eq_some _ y).2 h.symm
  exact Option.some.inj (hx.symm.trans hy)

/-- Settles O47: the one drive of each signal call, with the default table's entry for its source. -/
theorem defaultRoutingAndPolarity : Obligations.DefaultRoutingAndPolarity := by
  refine ⟨rfl, fun _ _ h => sinkOf_injective h, fun s b hp => ?_⟩
  have hdrive (src : Source) : (s.signal src b).events =
      s.events ++ [.drive (Board.sinkOf src) (if invertOf Board.invert src then !b else b)] := by
    rw [State.signal_events, hp, sinkValue_eq_ite]
    rfl
  exact ⟨_, _, _, _, ⟨rfl, hdrive .video⟩, ⟨rfl, hdrive .sound⟩, ⟨rfl, hdrive .uart⟩, ⟨rfl, hdrive .timer⟩⟩

/-- A line holds the value set last (R28). -/
@[simp] theorem Lines.set_set_self (l : Lines) (src : Source) (v w : Option Bool) :
    (l.set src v).set src w = l.set src w := by
  cases src <;> rfl

/-- A signal change that repeats the level leaves the lines and drives the sink again (R146; D8, log 10). -/
theorem State.signal_signal_self (s : State) (src : Source) (raw : Bool) :
    ((s.signal src raw).signal src raw).line = (s.signal src raw).line ∧
    ((s.signal src raw).signal src raw).events = s.events ++
      [.drive (Board.sinkOf src) (sinkValue s.cfg.invert src raw),
       .drive (Board.sinkOf src) (sinkValue s.cfg.invert src raw)] := by
  simp

/-- Settles O48: each of the four calls is its source's signal change, once and again. -/
theorem aRepeatedSignalDrivesAgain : Obligations.ARepeatedSignalDrivesAgain := by
  intro s b p hp
  have hexec : ∀ r : State, exec p.1 r = .next (r.signal p.2 b) := by
    simp only [List.mem_cons, List.not_mem_nil, or_false] at hp
    obtain rfl | rfl | rfl | rfl := hp <;> exact fun _ => rfl
  obtain ⟨hline, hevents⟩ := s.signal_signal_self p.2 b
  exact ⟨_, _, hexec s, hexec _, Lines.get_set_self s.line p.2 (some b), hline, rfl, hevents⟩

/-! ## Sinks and lines -/

/-- The last drive of a sink in a record is that of the record's later part, if there is one there. -/
theorem lastDrive_append (k : Sink) (es fs : List Event) :
    lastDrive k (es ++ fs) = (lastDrive k fs).or (lastDrive k es) := by
  induction es with
  | nil => simp [lastDrive]
  | cons e es ih =>
    simp only [List.cons_append, lastDrive, ih]
    cases lastDrive k fs <;> rfl

/-- A completed transaction is a signal change, or keeps the lines and every sink's last drive (R142 to R145,
R181; D9, log 21). -/
theorem Completes.signal_or_keeps_drives {i : Instr} {s t : State} (h : Completes i s t) :
    (∃ src raw, t = s.signal src raw) ∨
    (t.line = s.line ∧ ∀ k, lastDrive k t.events = lastDrive k s.events) := by
  cases h with
  | signal _ _ src raw => exact .inl ⟨src, raw, rfl⟩
  | extRead | extWrite | ataRead | ataWrite => exact .inr ⟨rfl, fun k => lastDrive_append k s.events [_]⟩
  | _ => exact .inr ⟨rfl, fun _ => rfl⟩

/-- The level of a sink is a function of the lines and the polarity table (R147). -/
theorem State.sinkLevel_congr {s t : State} (hline : t.line = s.line) (hcfg : t.cfg = s.cfg) (k : Sink) :
    t.sinkLevel k = s.sinkLevel k := by
  rw [State.sinkLevel, State.sinkLevel, hline, hcfg]

/-- After a signal change the source's sink is at the level just derived, and every other sink is where it was
(R147, R149). -/
theorem State.sinkLevel_signal (s : State) (src : Source) (raw : Bool) (k : Sink) :
    (s.signal src raw).sinkLevel k =
      if Board.sinkOf src = k then some (sinkValue s.cfg.invert src raw) else s.sinkLevel k := by
  split_ifs with hk
  · simp [State.sinkLevel, (sourceOf_eq_some k src).2 hk]
  · cases hsrc : Board.sourceOf k with
    | none => simp [State.sinkLevel, hsrc]
    | some src' =>
      have hne : src' ≠ src := fun heq => hk (heq ▸ (sourceOf_eq_some k src').1 hsrc)
      simp [State.sinkLevel, hsrc, Lines.get_set_ne _ _ hne]

/-- A signal change drives the source's sink, and no other, to that level (R142 to R145). -/
theorem State.lastDrive_signal (s : State) (src : Source) (raw : Bool) (k : Sink) :
    lastDrive k (s.signal src raw).events =
      if Board.sinkOf src = k then some (sinkValue s.cfg.invert src raw) else lastDrive k s.events := by
  rw [State.signal_events, lastDrive_append]
  split_ifs with hk <;> simp [lastDrive, hk]

/-- A completed transaction keeps every sink at the level of its source's line: a signal change moves the two
together, and everything else moves neither. -/
theorem Completes.keeps_sinksFollow {i : Instr} {s t : State} (h : Completes i s t) (hs : s.sinksFollow) :
    t.sinksFollow := by
  intro k
  obtain ⟨src, raw, rfl⟩ | ⟨hline, hdrives⟩ := h.signal_or_keeps_drives
  · rw [State.lastDrive_signal, State.sinkLevel_signal, hs k]
  · rw [hdrives k, State.sinkLevel_congr hline h.cfg_eq, hs k]

/-- Settles O12: a step is idle, or completes a transaction from the fetched state, whose lines and record are those
of the state before. -/
theorem stepKeepsSinksFollowingTheirLines : Obligations.StepKeepsSinksFollowingTheirLines := by
  intro s t hs h
  obtain ⟨-, ⟨-, rfl⟩ | ⟨w, ws, i, -, -, hexec⟩⟩ := step_next_cases h
  · exact hs
  · exact (exec_completes hexec).keeps_sinksFollow hs

/-! ## Trigger channel 2 -/

/-- No source is routed to trigger channel 2 (R149; D14, log 19). -/
theorem sinkOf_ne_trg2 (src : Source) : Board.sinkOf src ≠ .trg2 := by
  cases src <;> decide

/-- A completed transaction adds no drive of trigger channel 2: a signal change drives its source's sink, and the
CPU's transactions and the reset drive none (R149; D14). -/
theorem Completes.drive_trg2_mem {i : Instr} {s t : State} (h : Completes i s t) {b : Bool}
    (hb : Event.drive .trg2 b ∈ t.events) : Event.drive .trg2 b ∈ s.events := by
  obtain ⟨-, -, hcpu⟩ | ⟨-, src, raw, rfl⟩ | ⟨-, rfl⟩ := h.by_caller
  · exact hcpu _ b hb
  · simpa [(sinkOf_ne_trg2 src).symm] using hb
  · exact hb

/-- Settles O49: along the run no transaction adds such a drive. -/
theorem channelTwoIsNeverDriven : Obligations.ChannelTwoIsNeverDriven := by
  intro is s t h b
  exact execAll_keeps (P := fun r => Event.drive .trg2 b ∈ r.events → Event.drive .trg2 b ∈ s.events)
    (fun i _ r u hru hr hu => hr (hru.drive_trg2_mem hu)) h id

end Sys2Proof.Machine
end

section
/-! The statements of 60_exceptions.md: what the wiring checks of R163 find on any wiring, and when a step
faults. -/

namespace Sys2Proof.Machine

/-! ## Port ranges -/

/-- Two handlers overlap exactly when some port lies in both ranges: the later of the two starts. -/
theorem overlap_iff (a b : Handler) : Board.overlap a b = true ↔ ∃ p : Nat,
    (a.start.toNat ≤ p ∧ p ≤ a.stop.toNat) ∧ (b.start.toNat ≤ p ∧ p ≤ b.stop.toNat) := by
  simp only [Board.overlap, Bool.and_eq_true, decide_eq_true_eq, BitVec.le_def]
  constructor
  · rintro ⟨⟨⟨ha, hb⟩, hab⟩, hba⟩
    exact ⟨max a.start.toNat b.start.toNat, by omega⟩
  · rintro ⟨p, hpa, hpb⟩
    omega

/-- The range check accepts a table whose rows are pairwise free of overlap. -/
theorem rangesDisjoint_iff_pairwise (hs : List Handler) :
    Board.rangesDisjoint hs = true ↔ hs.Pairwise fun a b => ¬ Board.overlap a b = true := by
  induction hs with
  | nil => simp [Board.rangesDisjoint]
  | cons h hs ih => simp [Board.rangesDisjoint, ih]

/-- The range check refuses a table exactly when two of its rows claim a common port (R163). -/
theorem rangesDisjoint_eq_false_iff (hs : List Handler) : Board.rangesDisjoint hs = false ↔
    ∃ (i j : Nat) (hi : i < hs.length) (hj : j < hs.length) (p : Nat), i < j ∧
      (hs[i].start.toNat ≤ p ∧ p ≤ hs[i].stop.toNat) ∧ (hs[j].start.toNat ≤ p ∧ p ≤ hs[j].stop.toNat) := by
  rw [← Bool.not_eq_true, rangesDisjoint_iff_pairwise, List.pairwise_iff_getElem]
  simp only [overlap_iff, not_forall, not_not, exists_prop, exists_and_left]

/-! ## Window bindings -/

/-- The rows of a window list the one register `r` exactly when there is one row, and it binds the window to `r`. -/
theorem boundTo_eq_singleton_iff (bs : List (Nat × Nat)) (n r : Nat) :
    Board.boundTo bs n = [r] ↔ bs.filter (fun b => b.1 == n) = [(n, r)] := by
  rw [Board.boundTo, List.map_eq_singleton_iff]
  constructor
  · rintro ⟨⟨m, r'⟩, hrows, rfl⟩
    have hmem : (m, r') ∈ bs.filter (fun b => b.1 == n) := hrows ▸ List.mem_singleton_self _
    obtain rfl : m = n := by simpa using List.of_mem_filter hmem
    exact hrows
  · intro hrows
    exact ⟨(n, r), hrows, rfl⟩

/-- A window passes when its one row binds it to a register of the file (R163; log 32). -/
theorem boundOnce_iff (w : Wiring) (n : Nat) : Board.boundOnce w n = true ↔
    ∃ r < w.registers, w.bindings.filter (fun b => b.1 == n) = [(n, r)] := by
  simp only [← boundTo_eq_singleton_iff, Board.boundOnce]
  split
  · next r hrows => simp [hrows]
  · next hrows => simpa using fun r _ => hrows r

/-- The window check refuses a wiring without four registers, or with a window among the four that fails (R163). -/
theorem windowsBound_eq_false_iff (w : Wiring) : Board.windowsBound w = false ↔ w.registers ≠ 4 ∨
    ∃ n < 4, ¬ ∃ r < w.registers, w.bindings.filter (fun b => b.1 == n) = [(n, r)] := by
  simp only [← boundOnce_iff, Nat.exists_lt_succ_left, Board.windowsBound, Bool.and_eq_false_iff,
    decide_eq_false_iff_not, Bool.not_eq_true, Nat.not_lt_zero, false_and, exists_false, or_false, or_assoc]

/-! ## The checks -/

/-- Settles O18: the first check that fails gives the answer (log 20), and the range check and the window check fail
exactly on the two conflicts. -/
theorem wiringChecksFindTheConflicts : Obligations.WiringChecksFindTheConflicts := by
  intro w ports windows
  have hports : Board.rangesDisjoint w.handlers = false ↔ ports := rangesDisjoint_eq_false_iff w.handlers
  have hwindows : Board.windowsBound w = false ↔ windows := windowsBound_eq_false_iff w
  rw [Board.check, ← hports, ← hwindows]
  split_ifs with hp hw hc
  · simp [hp]
  · simp [hp, hw]
  · simpa [hp, hw] using hc
  · simpa [hp, hw] using hc

/-! ## Faults -/

/-- A wired machine never faults: it is idle, refuses a container that holds no transaction word, or runs a
meaning, and none of them faults (R160). -/
theorem step_ne_fault {s : State} (hwf : s.cfg.wf) (f : Fault) : step s ≠ .fault f := by
  cases hp : s.pending with
  | nil => simp [stepWithNoCallIsIdle s hwf hp]
  | cons w ws =>
    cases hd : decode w with
    | error why => simp [step_of_decode_error hwf hp hd]
    | ok i =>
      rw [stepRunsTheDecodedTransaction s w ws i hwf hp hd]
      exact exec_ne_fault i _ f

/-- A step faults exactly in a configuration that yields no machine (R163; log 11). -/
theorem step_fault_iff (s : State) : (∃ f, step s = .fault f) ↔ ¬ s.cfg.wf := by
  constructor
  · rintro ⟨f, hf⟩ hwf
    exact step_ne_fault hwf f hf
  · intro hwf
    exact ⟨.badImageSize, if_neg hwf⟩

/-- The configurations that yield no machine have an `IMAGE_SIZE` of 0 or above 0x200000 (R5, R163; D3). -/
theorem config_not_wf_iff (c : Config) : ¬ c.wf ↔ c.imageSize = 0 ∨ 0x200000 < c.imageSize := by
  rw [Config.wf, Config.maxImageSize]
  omega

/-- Settles O8: the configurations in which a step faults are those whose `IMAGE_SIZE` is out of range. -/
theorem onlyABadImageSizeFaults : Obligations.OnlyABadImageSizeFaults :=
  fun s => (step_fault_iff s).trans (config_not_wf_iff s.cfg)

end Sys2Proof.Machine
end

section
/-! The statements of 70_reset_and_hazards.md: where a memory access lands after a reset, what a reset leaves alone,
and the state that wiring yields. -/

namespace Sys2Proof.Machine

/-! ## The mapping after a reset -/

/-- The power-on registers give windows 0 and 1 page 0, and windows 2 and 3 the page of their own number (R27). -/
theorem Banks.page_get_powerOn (w : Window) :
    (page (Banks.powerOn.get w)).toNat = if w.toNat < 2 then 0 else w.toNat := by
  revert w
  decide

/-- Of the power-on registers that of window 0 alone is protected (R27). -/
theorem Banks.protect_get_powerOn (w : Window) : protect (Banks.powerOn.get w) = decide (w.toNat = 0) := by
  revert w
  decide

/-- The power-on registers lay the lower half of the address space twice on page 0, and leave an address of the
upper half as it is (R183). -/
theorem Banks.translate_powerOn (a : Addr) :
    (Banks.powerOn.translate a).toNat = if a.toNat < 0x8000 then a.toNat % 0x4000 else a.toNat := by
  rw [Banks.translate_toNat_page, Banks.page_get_powerOn, window_toNat]
  split_ifs <;> omega

/-- With the power-on registers the write-inert addresses are those of window 0 (R84). -/
theorem Banks.protect_get_powerOn_window (a : Addr) :
    protect (Banks.powerOn.get (window a)) = decide (a.toNat < 0x4000) := by
  rw [Banks.protect_get_powerOn, window_toNat, decide_eq_decide]
  omega

/-- Where a memory access lands after a reset: the clamp is that of the size before it (R183; D2, D9). -/
theorem State.phys_resetBanks (s : State) (a : Addr) : s.resetBanks.phys a =
    (if a.toNat < 0x8000 then a.toNat % 0x4000 else a.toNat) % s.cfg.imageSize := by
  rw [State.phys, clamp, State.resetBanks_bank, Banks.translate_powerOn, State.resetBanks_cfg]

/-- Settles O16: both accesses go to the offset above, and a write is discarded in window 0 alone. -/
theorem mappingAfterReset : Obligations.MappingAfterReset := by
  intro s r a d h
  obtain rfl : s.resetBanks = r := Host.Outcome.next.inj h
  have hprotect := Banks.protect_get_powerOn_window a
  rw [← State.phys_resetBanks]
  refine ⟨rfl, ?_⟩
  split_ifs with hlow
  · exact exec_memwr_of_protected d (hprotect.trans (decide_eq_true hlow))
  · exact exec_memwr_of_writable d (hprotect.trans (decide_eq_false hlow))

/-! ## The reset entry point -/

/-- A reset of a machine just reset changes nothing (R180). -/
theorem State.resetBanks_resetBanks (s : State) : s.resetBanks.resetBanks = s.resetBanks := rfl

/-- Settles O15: the meaning of `RESET` is one named update, which leaves every field of the list and is idempotent. -/
theorem resetChangesOnlyTheBankRegisters : Obligations.ResetChangesOnlyTheBankRegisters := by
  intro s
  exact ⟨s.resetBanks, rfl, s.resetBanks_line, s.resetBanks_img, s.resetBanks_cfg, s.resetBanks_events,
    s.resetBanks_pending, s.resetBanks_taken, s.resetBanks_response,
    congrArg Host.Outcome.next s.resetBanks_resetBanks⟩

/-! ## The power-on state -/

/-- At power-on no source has reported (R29, R182). -/
@[simp] theorem Lines.get_powerOn (src : Source) : Lines.powerOn.get src = none := by
  cases src <;> rfl

/-- At power-on no sink has a level, since no line has one (R147; D7, log 9). -/
theorem State.sinkLevel_powerOn (cfg : Config) (img : Memory) (k : Sink) :
    (State.powerOn cfg img).sinkLevel k = none := by
  simp [State.sinkLevel]

/-- A power-on state in which the invariant of the image holds is safe: nothing was driven, and no sink has a level. -/
theorem State.powerOn_safe {cfg : Config} {img : Memory} (h : (State.powerOn cfg img).inv) :
    (State.powerOn cfg img).safe :=
  ⟨h, fun k => (State.sinkLevel_powerOn cfg img k).symm⟩

/-- Settles O13: the first part's hypotheses are the invariant, and the model's reset state meets it. -/
theorem powerOnStateIsSafe : Obligations.PowerOnStateIsSafe :=
  ⟨fun _ _ hcfg hwf hin => State.powerOn_safe ⟨hcfg, hwf, hin⟩, State.powerOn_safe (by decide)⟩

/-! ## Wiring -/

/-- This board's ranges and bindings pass, so its checks turn on the image size alone (R64, R23, R163). -/
theorem check_wiring (cfg : Config) :
    Board.check (Board.wiring cfg) = if cfg.wf then .ok () else .error .badImageSize := by
  have hranges : Board.rangesDisjoint (Board.wiring cfg).handlers = true := rfl
  have hwindows : Board.windowsBound (Board.wiring cfg) = true := rfl
  simp only [Board.check, hranges, hwindows, Bool.true_eq_false, if_false]
  rfl

/-- The wiring routine yields the power-on state of every configuration with an image size in range, and no machine
of any other (R163, R182, R186). -/
theorem wire_eq (cfg : Config) (img : Memory) :
    wire cfg img = if cfg.wf then .ok (State.powerOn cfg img) else .error .badImageSize := by
  rw [wire, check_wiring]
  split_ifs <;> rfl

/-- Settles O17: the statement writes out the power-on state and the range of the image size. -/
theorem wiringYieldsThePowerOnState : Obligations.WiringYieldsThePowerOnState :=
  wire_eq

end Sys2Proof.Machine
end
